-- ==== Sys2Proof/Word.lean ====
section
/-! DEFINITION. The word types of PMSG-CRCTC (00_scope.md R4, R5, R6): all values are unsigned bit vectors of a stated
width, bit 0 the least significant. -/

namespace Sys2Proof

/-- A type-code or payload byte: 8 bits. -/
abbrev Byte := BitVec 8

/-- `CRC_WIDTH` = `LEN_WIDTH` = 32: the width of CRC, LEN, the four read views and the operand of CHK (00_scope.md R4). -/
abbrev Word32 := BitVec 32

/-- `CMD_WIDTH` = 36: a command word, presented in parallel on `cmd[35:0]` (30_encoding.md R70). -/
abbrev Command := BitVec 36

end Sys2Proof
end

