-- ==== Sys2Proof/Syntax.lean ====
section
/-! DEFINITION. The commands of PMSG-CRCTC: one constructor per row of spec/opcode_table.json (30_encoding.md R75).
Operands have the width of their field (R74), so every term is a command the block knows. -/

namespace Sys2Proof

/-- A decoded command. -/
inductive Instr where
  /-- START, format N: begin a new computation (42_commands.md R131). -/
  | start
  /-- PUSH, format B: push one byte (42_commands.md R132). -/
  | push (byte : Byte)
  /-- FIN, format N: end a generating computation (42_commands.md R139). -/
  | fin
  /-- CHK, format W: end a verifying computation, `exp` the stored crc as a number (42_commands.md R140). -/
  | chk (exp : Word32)
deriving DecidableEq, Repr

end Sys2Proof
end

