-- ==== Sys2Proof/WellFormed.lean ====
section
/-! DEFINITION. Well-formedness of command words and of commands. A word is well formed when it matches a row of the opcode
map (30_encoding.md R75); every other word is illegal (R78). -/

namespace Sys2Proof

/-- One row of the opcode map: a word selects it exactly when `(cmd and mask) = match` (30_encoding.md R75). -/
structure OpcodeRow where
  mnemonic : String
  maskBits : Command
  matchBits : Command
deriving DecidableEq, Repr

/-- START: op 1, all of arg reserved. -/
def rowStart : OpcodeRow := { mnemonic := "START", maskBits := 0xFFFFFFFFF#36, matchBits := 0x100000000#36 }
/-- PUSH: op 2, arg[31:8] reserved. -/
def rowPush : OpcodeRow := { mnemonic := "PUSH", maskBits := 0xFFFFFFF00#36, matchBits := 0x200000000#36 }
/-- FIN: op 3, all of arg reserved. -/
def rowFin : OpcodeRow := { mnemonic := "FIN", maskBits := 0xFFFFFFFFF#36, matchBits := 0x300000000#36 }
/-- CHK: op 4, nothing reserved. -/
def rowChk : OpcodeRow := { mnemonic := "CHK", maskBits := 0xF00000000#36, matchBits := 0x400000000#36 }

/-- The opcode map of 30_encoding.md R75. -/
def opcodeRows : List OpcodeRow := [rowStart, rowPush, rowFin, rowChk]

/-- The word selects the row's command (30_encoding.md R75). -/
def rowSelects (r : OpcodeRow) (w : Command) : Bool := w &&& r.maskBits == r.matchBits

/-- The word is one of the four commands: some row selects it. The complement is the illegal words of 30_encoding.md R78. -/
def wellFormedWord (w : Command) : Bool := opcodeRows.any (rowSelects · w)

/-- The row of a command. -/
def rowOf : Instr → OpcodeRow
  | .start => rowStart
  | .push _ => rowPush
  | .fin => rowFin
  | .chk _ => rowChk

/-- The operand ranges of 30_encoding.md R72 to R74. The operand types already have the fields' widths, so every command
is well formed: what can be ill formed is a word (`wellFormedWord`) or an assembler line
(`Sys2Proof.Machine.lineWellFormed`). -/
def wellFormed : Instr → Bool
  | .start => true
  | .push byte => decide (byte.toNat ≤ 0xFF)
  | .fin => true
  | .chk exp => decide (exp.toNat ≤ 0xFFFFFFFF)

end Sys2Proof
end

