-- ==== Sys2Proof/Decode.lean ====
section
/-! DEFINITION. The decoder of 30_encoding.md R77, total on the 2^36 command words, and the encoder written from the formats
N, B and W (R71, R72, R73) and the opcode map (R75). -/

namespace Sys2Proof

/-- Why a word decodes to no command (30_encoding.md R78). The block keeps nothing of the reason (60_exceptions.md R161:
"the word is not kept"); the names are the model's own (log entry 11). -/
inductive IllegalWord where
  /-- `op` is 0x0 or 0x5 to 0xF. -/
  | reservedOpcode
  /-- `op` = 0x1 with `arg` not 0. -/
  | startReservedBits
  /-- `op` = 0x2 with `arg[31:8]` not 0. -/
  | pushReservedBits
  /-- `op` = 0x3 with `arg` not 0. -/
  | finReservedBits
deriving DecidableEq, Repr

/-- `op = cmd[35:32]` (30_encoding.md R70). -/
def opField (w : Command) : BitVec 4 := w.extractLsb' 32 4

/-- `arg = cmd[31:0]` (30_encoding.md R70). -/
def argField (w : Command) : Word32 := w.extractLsb' 0 32

/-- `byte = cmd[7:0]`, format B (30_encoding.md R72, R74). -/
def byteField (w : Command) : Byte := w.extractLsb' 0 8

/-- `arg[31:8]`, the reserved bits of format B (30_encoding.md R72). -/
def reservedB (w : Command) : BitVec 24 := w.extractLsb' 8 24

/-- `decode` (30_encoding.md R77). It does not read the state. -/
def decode (w : Command) : Except IllegalWord Instr :=
  if opField w = 0x1#4 then
    if argField w = 0#32 then .ok .start else .error .startReservedBits
  else if opField w = 0x2#4 then
    if reservedB w = 0#24 then .ok (.push (byteField w)) else .error .pushReservedBits
  else if opField w = 0x3#4 then
    if argField w = 0#32 then .ok .fin else .error .finReservedBits
  else if opField w = 0x4#4 then
    .ok (.chk (argField w))
  else
    .error .reservedOpcode

/-- A word from its two fields, `op` in bits 35:32 and `arg` in bits 31:0 (30_encoding.md R70). -/
def wordOf (op : BitVec 4) (arg : Word32) : Command := op ++ arg

/-- The word of a command (30_encoding.md R71, R72, R73, R75). -/
def encode : Instr → Command
  | .start => wordOf 0x1#4 0#32
  | .push byte => wordOf 0x2#4 (0#24 ++ byte)
  | .fin => wordOf 0x3#4 0#32
  | .chk exp => wordOf 0x4#4 exp

/-- The command word that the low `nbits` bits of `w` make, where it has one: a row of the opcode table is 36 bits, so bits
36 and up of the whole-byte number must be 0 (log entry 13). -/
def tableCommand (nbits w : Nat) : Option Command :=
  if w % 2 ^ nbits < 2 ^ 36 then some (BitVec.ofNat 36 (w % 2 ^ nbits)) else none

/-- The command the decoder reads from a word numbered as spec/opcode_table.json numbers it; none where the decoder refuses. -/
def decodeTableWord (nbits w : Nat) : Option Instr :=
  match tableCommand nbits w with
  | some cmd => (decode cmd).toOption
  | none => none

end Sys2Proof
end

