-- ==== Sys2Proof/Config.lean ====
section
/-! DEFINITION. The implementation parameters of 00_scope.md R4, each at the value this hardware takes. The spec leaves no
value free (93_implementation_defined.md, end of part 1), so there is no free value here. -/

namespace Sys2Proof.Config

/-- `TC_BYTES`: bytes in a type code. -/
def tcBytes : BitVec 3 := 4#3

/-- `FLAG_BIT`: the bit of each type byte that carries its property (mask 0x20). -/
def flagBit : Nat := 5

/-- `LEN_MAX`: the largest payload byte count accepted, 2^31, inclusive (D14; log entry 6). -/
def lenMax : Word32 := 0x80000000#32

/-- `CRC_POLY`: the generator polynomial, most significant term first, x^32 implied (41_crc32.md R111).
UNVERIFIED: general knowledge GK1 of the spec (log entry 5). -/
def crcPoly : Word32 := 0x04C11DB7#32

/-- `CRC_POLY_REFL`: the generator polynomial with its 32 bits reversed (41_crc32.md R111).
UNVERIFIED: GK1 (log entry 5). -/
def crcPolyRefl : Word32 := 0xEDB88320#32

/-- `CRC_INIT`: the value START and reset load into CRC. UNVERIFIED: GK1 (log entry 5). -/
def crcInit : Word32 := 0xFFFFFFFF#32

/-- `CRC_XOROUT`: CRCVAL = CRC xor this. UNVERIFIED: GK1 (log entry 5). -/
def crcXorOut : Word32 := 0xFFFFFFFF#32

/-- The code of 'A'. UNVERIFIED: GK2 (log entry 5), as are the three codes after it. -/
def upperFirst : Byte := 0x41#8
/-- The code of 'Z'. -/
def upperLast : Byte := 0x5A#8
/-- The code of 'a'. -/
def lowerFirst : Byte := 0x61#8
/-- The code of 'z'. -/
def lowerLast : Byte := 0x7A#8

end Sys2Proof.Config
end

