-- ==== Sys2Proof/Machine/Crc.lean ====
section
/-! DEFINITION. The CRC-32/IEEE function (41_crc32.md R112 to R116). Its parameters stand in Config (log entry 5). -/

namespace Sys2Proof.Machine

/-- One bit: shift right, and xor the reflected polynomial when register bit 0 and the data bit differ (41_crc32.md R112). -/
def crcBit (c : Word32) (d : Bool) : Word32 :=
  let f := c.getLsbD 0 ^^ d
  let s := c >>> 1
  if f then s ^^^ Config.crcPolyRefl else s

/-- The bits of a byte in the order the CRC takes them, bit 0 first (20_memory.md R55, 41_crc32.md R113). -/
def bitsInOrder (b : Byte) : List Bool :=
  [b.getLsbD 0, b.getLsbD 1, b.getLsbD 2, b.getLsbD 3, b.getLsbD 4, b.getLsbD 5, b.getLsbD 6, b.getLsbD 7]

/-- One byte (41_crc32.md R113). -/
def crcByte (c : Word32) (b : Byte) : Word32 := (bitsInOrder b).foldl crcBit c

/-- A byte sequence (41_crc32.md R114). -/
def crcBytes (c : Word32) (s : List Byte) : Word32 := s.foldl crcByte c

/-- The checksum (41_crc32.md R115). -/
def crc32 (s : List Byte) : Word32 := crcBytes Config.crcInit s ^^^ Config.crcXorOut

/-- `T[n] = crc_byte(zext_32(n), 0x00)`, the table of the table form (41_crc32.md R116). -/
def crcTable (n : Byte) : Word32 := crcByte (n.zeroExtend 32) 0x00#8

end Sys2Proof.Machine
end

