-- ==== Sys2Proof/Machine/State.lean ====
section
/-! DEFINITION. The state of the block (Registers, the record of 10_state.md R20), and the state of the model: those
registers and, beside them, the input port values the host has still to present. -/

namespace Sys2Proof.Machine

/-- PHASE, a 2-bit register with four values (10_state.md R27); its codes are `phaseCode`. -/
inductive Phase where
  /-- 0: fewer than four type-code bytes captured. -/
  | type
  /-- 1: a valid type code is complete; payload is admitted. -/
  | data
  /-- 2: the computation ended without error. -/
  | done
  /-- 3: an error ended the computation; only START is accepted. -/
  | fault
deriving DecidableEq, Repr

/-- CAUSE, a 3-bit register holding one of the codes 0 to 6 of 60_exceptions.md R161; its codes are `causeCode`.
DEDUCED: the eighth code, 7, is never produced (10_state.md R25) and has no constructor (log entry 2). -/
inductive Cause where
  /-- 0: PHASE is not FAULT. -/
  | none
  /-- 1: some of the four type bytes is not an ASCII letter. -/
  | invalidTypeCode
  /-- 2: the payload would exceed LEN_MAX bytes. -/
  | invalidChunkLength
  /-- 3: CRCVAL differs from CHK's operand. -/
  | invalidCrc
  /-- 4: FIN or CHK before four type bytes. -/
  | truncatedInput
  /-- 5: the word decodes to no command. -/
  | illegalCommand
  /-- 6: PUSH, FIN or CHK in phase DONE. -/
  | illegalSequence
deriving DecidableEq, Repr

/-- TC[0] to TC[3], four 8-bit registers: the type-code bytes in stream order (10_state.md R22). -/
structure TypeCode where
  b0 : Byte
  b1 : Byte
  b2 : Byte
  b3 : Byte
deriving DecidableEq, Repr

/-- The values on the input ports `rst`, `cmd_valid` and `cmd` at one rising edge of `clk` (20_memory.md R52). -/
structure PortSample where
  rst : Bool
  cmdValid : Bool
  cmd : Command
deriving DecidableEq, Repr

/-- What an edge is to the block (42_commands.md R130). -/
inductive Input where
  | reset
  | idle
  | cmd (w : Command)
deriving DecidableEq, Repr

/-- The whole state of the block: exactly the record of 10_state.md R20, 104 bits and nothing else. It is the `S` of
`step(S, input)` (42_commands.md R130), which is `blockStep` in Machine/Clock.lean. -/
@[ext]
structure Registers where
  /-- CRC: the running remainder, un-complemented, reflected form (10_state.md R21). -/
  crc : Word32
  /-- TC[0..3] (10_state.md R22). -/
  tc : TypeCode
  /-- TCN: the number of type-code bytes captured (10_state.md R23). -/
  tcn : BitVec 3
  /-- LEN: the number of payload bytes absorbed (10_state.md R24). -/
  len : Word32
  /-- PHASE (10_state.md R27). -/
  phase : Phase
  /-- CAUSE (10_state.md R25). -/
  cause : Cause
deriving DecidableEq, Repr

/-- What the host's interface steps: the block's registers and, beside them, its environment, the input of the edges still
to come, which is no state of the block. DESIGN CHOICE: `step` takes the machine alone, so the `input` of R130 stands here
(log entry 1). -/
@[ext]
structure State extends Registers where
  /-- The port values (20_memory.md R52) of the rising edges still to come, nearest first; a step consumes one. -/
  pending : List PortSample
deriving DecidableEq, Repr

/-- Reasons the machine stops with a fault: there are none. A fault of the spec is a NEXT state (60_exceptions.md R165) and
the block never hangs (70_reset_and_hazards.md R206). Safe: no step is turned into a stop by it (log entry 4). -/
inductive Fault where
deriving DecidableEq, Repr

/-- Reasons a step has no meaning in the model. -/
inductive Refusal where
  /-- An instruction with no meaning yet, raised only by `exec`. No arm raises it. Safe: the machine stops. -/
  | notModelled (mnemonic : String)
  /-- Raised by PUSH in a state that 10_state.md R26 excludes and for which 42_commands.md R132 has no row: phase TYPE with
  TCN above 3, or phase DATA with LEN above LEN_MAX. DESIGN CHOICE following 93_implementation_defined.md U12 (`refuse`); no
  state reachable from reset is one of these. Safe: the machine stops (log entry 3). -/
  | outsideInvariants
deriving DecidableEq, Repr

/-- The state right after reset: the reset values of 10_state.md R20, R36 and 70_reset_and_hazards.md R192, and no input
presented yet (DESIGN CHOICE, log entry 1). -/
def State.reset : State where
  crc := 0xFFFFFFFF#32
  tc := { b0 := 0x00#8, b1 := 0x00#8, b2 := 0x00#8, b3 := 0x00#8 }
  tcn := 0#3
  len := 0#32
  phase := .type
  cause := .none
  pending := []

end Sys2Proof.Machine
end

