-- ==== Sys2Proof/Machine/Flags.lean ====
section
/-! DEFINITION. The TypeCode decoder: the letter test and the property flags (40_typecode.md R90 to R97), pure functions of
TC and TCN. None of them writes state. -/

namespace Sys2Proof.Machine

/-- `is_letter(b)` (40_typecode.md R90). -/
def isLetter (b : Byte) : Bool :=
  (decide (Config.upperFirst ≤ b) && decide (b ≤ Config.upperLast)) ||
    (decide (Config.lowerFirst ≤ b) && decide (b ≤ Config.lowerLast))

/-- `tc_letters(t0, t1, t2, t3)` (40_typecode.md R91). -/
def tcLetters (t : TypeCode) : Bool := isLetter t.b0 && isLetter t.b1 && isLetter t.b2 && isLetter t.b3

/-- `is_critical`: bit 5 of byte 0 clear (40_typecode.md R92). -/
def isCritical (t : TypeCode) : Bool := !t.b0.getLsbD Config.flagBit

/-- `is_public`: bit 5 of byte 1 clear (40_typecode.md R93). -/
def isPublic (t : TypeCode) : Bool := !t.b1.getLsbD Config.flagBit

/-- `is_reserved_bit_valid`: bit 5 of byte 2 clear (40_typecode.md R94). -/
def isReservedBitValid (t : TypeCode) : Bool := !t.b2.getLsbD Config.flagBit

/-- `is_safe_to_copy`: bit 5 of byte 3 SET, the one property that is true when its bit is set (40_typecode.md R95). -/
def isSafeToCopy (t : TypeCode) : Bool := t.b3.getLsbD Config.flagBit

/-- `is_valid` (40_typecode.md R96): nothing in the block gates on it (R100). -/
def isValid (t : TypeCode) : Bool := isReservedBitValid t

/-- TC_OK: four bytes have been captured and all four are letters (40_typecode.md R97). -/
def tcOk (s : State) : Bool := decide (s.tcn = Config.tcBytes) && tcLetters s.tc

end Sys2Proof.Machine
end

