-- ==== Sys2Proof/Machine/Operands.lean ====
section
/-! DEFINITION. Operand forms: bytes of a 32-bit field (20_memory.md R54), the bytes of a type code, and what an edge's port
values are to the block (42_commands.md R130). The fields of a command word stand in Decode.lean (30_encoding.md R70, R74). -/

namespace Sys2Proof.Machine

/-- `ser_be32(w)`: the four bytes of a 32-bit number, most significant first (20_memory.md R54). -/
def serBe32 (w : Word32) : List Byte :=
  [w.extractLsb' 24 8, w.extractLsb' 16 8, w.extractLsb' 8 8, w.extractLsb' 0 8]

/-- `de_be32(b0, b1, b2, b3)`, b0 most significant (20_memory.md R54): how the host forms CHK's operand. -/
def deBe32 (b0 b1 b2 b3 : Byte) : Word32 := b0 ++ b1 ++ b2 ++ b3

/-- The four bytes of a type code in stream order (20_memory.md R53). -/
def typeBytes (t : TypeCode) : List Byte := [t.b0, t.b1, t.b2, t.b3]

/-- TC[i]; index i is the source's byte index (10_state.md R22). -/
def tcGet (t : TypeCode) : Nat → Byte
  | 0 => t.b0
  | 1 => t.b1
  | 2 => t.b2
  | _ => t.b3

/-- `TC[i] <- b` for i in 0..3 (00_scope.md R6). -/
def tcSet (t : TypeCode) (i : Nat) (b : Byte) : TypeCode :=
  match i with
  | 0 => { t with b0 := b }
  | 1 => { t with b1 := b }
  | 2 => { t with b2 := b }
  | 3 => { t with b3 := b }
  | _ => t

/-- Reset when `rst` = 1, whatever the other ports hold (70_reset_and_hazards.md R191); else Idle when `cmd_valid` = 0,
whatever is on `cmd` (42_commands.md R146); else Cmd(cmd) (R130). -/
def inputOf (p : PortSample) : Input :=
  if p.rst then .reset else if p.cmdValid then .cmd p.cmd else .idle

/-- The port values of an edge at which the host presents the command word `w`. -/
def commandSample (w : Command) : PortSample := { rst := false, cmdValid := true, cmd := w }

/-- The port values of an edge with no command; what stands on `cmd` has no effect (42_commands.md R146). -/
def idleSample : PortSample := { rst := false, cmdValid := false, cmd := 0#36 }

/-- The port values of an edge with `rst` = 1; the other ports have no effect (70_reset_and_hazards.md R191). -/
def resetSample : PortSample := { rst := true, cmdValid := false, cmd := 0#36 }

end Sys2Proof.Machine
end

