-- ==== Sys2Proof/Machine/Ops.lean ====
section
/-! DEFINITION. The register operations the commands share: fault entry and the way out of a fault, capturing a type byte,
absorbing a payload byte, ending a computation, reset. None of them touches `pending`. -/

namespace Sys2Proof.Machine

/-- `raise F`: fault entry (60_exceptions.md R165). PHASE and CAUSE change and nothing else: nothing is saved, no address is
gone to, there is no mode. -/
def raiseFault (c : Cause) (s : State) : State := { s with phase := .fault, cause := c }

/-- What START writes (42_commands.md R131): every register. It is also the return from a fault (60_exceptions.md R174),
which keeps nothing of the faulted computation. -/
def startComputation (s : State) : State :=
  { s with
    crc := Config.crcInit
    tc := { b0 := 0x00#8, b1 := 0x00#8, b2 := 0x00#8, b3 := 0x00#8 }
    tcn := 0#3
    len := 0#32
    phase := .type
    cause := .none }

/-- What a reset step writes, from any state whatever (70_reset_and_hazards.md R192). -/
def resetRegisters (s : State) : State :=
  { s with
    crc := Config.crcInit
    tc := { b0 := 0x00#8, b1 := 0x00#8, b2 := 0x00#8, b3 := 0x00#8 }
    tcn := 0#3
    len := 0#32
    phase := .type
    cause := .none }

/-- `TC[TCN] <- b; TCN <- TCN + 1; CRC <- crc_byte(CRC, b)`: the writes of a PUSH in phase TYPE (42_commands.md R133, R134). -/
def captureTypeByte (b : Byte) (s : State) : State :=
  { s with tc := tcSet s.tc s.tcn.toNat b, tcn := s.tcn + 1#3, crc := crcByte s.crc b }

/-- The fourth type byte: capture it, then check all four letters (42_commands.md R134). On the fault the captured values
stay written. -/
def completeTypeCode (b : Byte) (s : State) : State :=
  let t := captureTypeByte b s
  if tcLetters t.tc then { t with phase := .data } else raiseFault .invalidTypeCode t

/-- A payload byte against the bound `lenMax`: absorbed below it (42_commands.md R136), refused at it with InvalidChunkLength
(R137). Above it R132 has no row (log entry 3). -/
def absorbPayload (lenMax : Word32) (b : Byte) (s : State) : Host.Outcome State Fault Refusal :=
  if s.len < lenMax then .next { s with crc := crcByte s.crc b, len := s.len + 1#32 }
  else if s.len = lenMax then .next (raiseFault .invalidChunkLength s)
  else .refused .outsideInvariants

/-- `PHASE <- DONE`, the end of a computation (42_commands.md R139, R140). -/
def finishComputation (s : State) : State := { s with phase := .done }

/-- An accepted illegal word: IllegalCommand in phases TYPE, DATA and DONE (42_commands.md R141), ignored in phase FAULT
(60_exceptions.md R167). -/
def illegalWord (s : State) : State :=
  match s.phase with
  | .fault => s
  | .type | .data | .done => raiseFault .illegalCommand s

end Sys2Proof.Machine
end

