-- ==== Sys2Proof/Machine/Views.lean ====
section
/-! DEFINITION. What the host can read: four 32-bit views and two wires, combinational functions of the state with no side
effect (10_state.md R30 to R35, 20_memory.md R57, R58). -/

namespace Sys2Proof.Machine

/-- The numeric codes of PHASE (10_state.md R27). -/
def phaseCode : Phase → BitVec 2
  | .type => 0#2
  | .data => 1#2
  | .done => 2#2
  | .fault => 3#2

/-- The numeric codes of CAUSE (60_exceptions.md R161). -/
def causeCode : Cause → BitVec 3
  | .none => 0#3
  | .invalidTypeCode => 1#3
  | .invalidChunkLength => 2#3
  | .invalidCrc => 3#3
  | .truncatedInput => 4#3
  | .illegalCommand => 5#3
  | .illegalSequence => 6#3

/-- CRCVAL = CRC xor 0xFFFFFFFF (10_state.md R31). -/
def crcVal (s : State) : Word32 := s.crc ^^^ Config.crcXorOut

/-- TYPE = TC[0] ++ TC[1] ++ TC[2] ++ TC[3] (10_state.md R32). -/
def typeView (s : State) : Word32 := s.tc.b0 ++ s.tc.b1 ++ s.tc.b2 ++ s.tc.b3

/-- LEN (10_state.md R33). -/
def lenView (s : State) : Word32 := s.len

/-- STATUS (10_state.md R34), most significant field first: 31:14 zero, TC_OK, SAFE_TO_COPY, RESERVED_VALID, PUBLIC,
CRITICAL, TC_LETTERS, TCN, CAUSE, PHASE. -/
def statusView (s : State) : Word32 :=
  0#18 ++ BitVec.ofBool (tcOk s) ++ BitVec.ofBool (isSafeToCopy s.tc) ++ BitVec.ofBool (isReservedBitValid s.tc) ++
    BitVec.ofBool (isPublic s.tc) ++ BitVec.ofBool (isCritical s.tc) ++ BitVec.ofBool (tcLetters s.tc) ++
    s.tcn ++ causeCode s.cause ++ phaseCode s.phase

/-- The read port: the view that `rsel` selects (10_state.md R30, 20_memory.md R58). -/
def rdata (rsel : BitVec 2) (s : State) : Word32 :=
  if rsel = 0#2 then crcVal s
  else if rsel = 1#2 then typeView s
  else if rsel = 2#2 then lenView s
  else statusView s

/-- The wire `fault` (10_state.md R35, 60_exceptions.md R173). -/
def faultWire (s : State) : Bool := decide (s.phase = .fault)

/-- The wire `done` (10_state.md R35). -/
def doneWire (s : State) : Bool := decide (s.phase = .done)

end Sys2Proof.Machine
end

