-- ==== Sys2Proof/Machine/Check.lean ====
section
/-! DEFINITION. The meaning of the format W command CHK (42_commands.md R140). -/

namespace Sys2Proof.Machine

/-- CHK e, by phase (42_commands.md R140): the comparison of CRCVAL with the operand, all 32 bits, in DATA only. -/
def execChk (exp : Word32) (s : State) : Host.Outcome State Fault Refusal :=
  match s.phase with
  | .type => .next (raiseFault .truncatedInput s)
  | .data => if crcVal s = exp then .next (finishComputation s) else .next (raiseFault .invalidCrc s)
  | .done => .next (raiseFault .illegalSequence s)
  | .fault => .next s

end Sys2Proof.Machine
end

