-- ==== Sys2Proof/Machine/Control.lean ====
section
/-! DEFINITION. The meanings of the format N commands: START (42_commands.md R131) and FIN (R139). -/

namespace Sys2Proof.Machine

/-- START: admitted in every phase, FAULT included; no fault, ever (42_commands.md R131). -/
def execStart (s : State) : Host.Outcome State Fault Refusal := .next (startComputation s)

/-- FIN, by phase (42_commands.md R139). -/
def execFin (s : State) : Host.Outcome State Fault Refusal :=
  match s.phase with
  | .type => .next (raiseFault .truncatedInput s)
  | .data => .next (finishComputation s)
  | .done => .next (raiseFault .illegalSequence s)
  | .fault => .next s

end Sys2Proof.Machine
end

