-- ==== Sys2Proof/Machine/Push.lean ====
section
/-! DEFINITION. The meaning of the format B command PUSH (42_commands.md R132). -/

namespace Sys2Proof.Machine

/-- PUSH b, by phase (42_commands.md R132): R133 and R134 in TYPE, R136 and R137 in DATA, R138 in DONE, ignored in FAULT
(60_exceptions.md R167). TYPE with TCN above 3 has no row in R132 (log entry 3). -/
def execPush (b : Byte) (s : State) : Host.Outcome State Fault Refusal :=
  match s.phase with
  | .type =>
    if s.tcn < 3#3 then .next (captureTypeByte b s)
    else if s.tcn = 3#3 then .next (completeTypeCode b s)
    else .refused .outsideInvariants
  | .data => absorbPayload Config.lenMax b s
  | .done => .next (raiseFault .illegalSequence s)
  | .fault => .next s

end Sys2Proof.Machine
end

