-- ==== Sys2Proof/Machine/Dispatch.lean ====
section
/-! DEFINITION. exec: one arm per command (42_commands.md R130, the cases after decoding). -/

namespace Sys2Proof.Machine

def exec (i : Instr) (s : State) : Host.Outcome State Fault Refusal :=
  match i with
  | .start => Sys2Proof.Machine.execStart s
  | .push byte => Sys2Proof.Machine.execPush byte s
  | .fin => Sys2Proof.Machine.execFin s
  | .chk exp => Sys2Proof.Machine.execChk exp s

end Sys2Proof.Machine
end

