-- ==== Sys2Proof/Machine/Clock.lean ====
section
/-! DEFINITION. One rising edge of the clock (42_commands.md R130): what the block does with the input of the edge. -/

namespace Sys2Proof.Machine

/-- An accepted command word: its command, or the treatment of an illegal word (42_commands.md R130, R141). In phase FAULT
every meaning but START's leaves the state as it is, and so does an illegal word (60_exceptions.md R167). -/
def acceptWord (w : Command) (s : State) : Host.Outcome State Fault Refusal :=
  match decode w with
  | .ok i => exec i s
  | .error _ => .next (illegalWord s)

/-- The three cases of the input of an edge (42_commands.md R130). -/
def takeInput (input : Input) (s : State) : Host.Outcome State Fault Refusal :=
  match input with
  | .reset => .next (resetRegisters s)
  | .idle => .next s
  | .cmd w => acceptWord w s

/-- `step(S, input)` of 42_commands.md R130, on exactly the record of 10_state.md R20. -/
def blockStep (S : Registers) (input : Input) : Host.Outcome Registers Fault Refusal :=
  match takeInput input { toRegisters := S, pending := [] } with
  | .next t => .next t.toRegisters
  | .fault r => .fault r
  | .refused r => .refused r

/-- The transition of one edge (42_commands.md R130). -/
def clockEdge (p : PortSample) (s : State) : Host.Outcome State Fault Refusal := takeInput (inputOf p) s

/-- The input of the next edge is consumed as the block takes it: nothing presented is kept for a later edge
(70_reset_and_hazards.md R191). With nothing presented the edge is Idle (log entry 1). -/
def nextEdge (s : State) : Host.Outcome State Fault Refusal :=
  match s.pending with
  | [] => .next s
  | p :: rest => clockEdge p { s with pending := rest }

/-- The state with the command word of `tableCommand nbits w` presented at the next edge, before whatever is pending; the
state itself where that number is no command word (log entry 13). -/
def presentWord (nbits w : Nat) (s : State) : State :=
  match tableCommand nbits w with
  | some cmd => { s with pending := commandSample cmd :: s.pending }
  | none => s

end Sys2Proof.Machine
end

