-- ==== Sys2Proof/Machine/Step.lean ====
section
/-! DEFINITION. The step of the machine: one rising edge of `clk` (42_commands.md R130). -/

namespace Sys2Proof.Machine

/-- One step: the next edge (42_commands.md R130). -/
def step (s : State) : Host.Outcome State Fault Refusal := nextEdge s

/-- The state at whose next edge the host presents the table word (log entry 13). -/
def State.withFetchWord (s : State) (nbits w : Nat) : State := presentWord nbits w s

end Sys2Proof.Machine
end

