-- ==== Sys2Proof/Machine/Assembler.lean ====
section
/-! DEFINITION. The assembler lines of 30_encoding.md R81 and the pseudo-instructions of R82, as abstract terms: what each
line puts on the ports, and what each pseudo-instruction expands to. Lexing their text is host software (00_scope.md R3). -/

namespace Sys2Proof.Machine

/-- One line of the assembler syntax, its immediates as written (30_encoding.md R81). -/
inductive AsmLine where
  | start
  | push (imm8 : Nat)
  | fin
  | chk (imm32 : Nat)
  /-- `.word imm36`: the 36-bit value as given. -/
  | word (imm36 : Nat)
  /-- `.idle`: one edge with `cmd_valid` = 0. -/
  | idle
  /-- `.reset`: one edge with `rst` = 1. -/
  | reset
deriving DecidableEq, Repr

/-- A pseudo-instruction (30_encoding.md R82); text stands as its bytes. -/
inductive Pseudo where
  | pushs (text : List Byte)
  | pushb (bytes : List Nat)
  | typeCode (text : List Byte)
  | gen (text : List Byte) (bytes : List Nat)
  | verify (text : List Byte) (bytes : List Nat) (imm32 : Nat)
  | classify (text : List Byte)
deriving DecidableEq, Repr

/-- What the assembler refuses. -/
inductive AsmError where
  /-- An immediate outside its range (30_encoding.md R81). -/
  | immediateOutOfRange
  /-- A TYPE text that is not exactly 4 bytes (30_encoding.md R82). -/
  | textNotFourBytes
deriving DecidableEq, Repr

/-- The immediates are in range: imm8 0 to 255, imm32 0 to 0xFFFFFFFF, imm36 36 bits (30_encoding.md R81). -/
def lineWellFormed : AsmLine → Bool
  | .push imm8 => decide (imm8 ≤ 255)
  | .chk imm32 => decide (imm32 ≤ 0xFFFFFFFF)
  | .word imm36 => decide (imm36 < 2 ^ 36)
  | .start => true
  | .fin => true
  | .idle => true
  | .reset => true

/-- The port values of a line (30_encoding.md R81, column "word"). -/
def lineSample : AsmLine → PortSample
  | .start => commandSample 0x100000000#36
  | .push imm8 => commandSample (0x200000000#36 + BitVec.ofNat 36 imm8)
  | .fin => commandSample 0x300000000#36
  | .chk imm32 => commandSample (0x400000000#36 + BitVec.ofNat 36 imm32)
  | .word imm36 => commandSample (BitVec.ofNat 36 imm36)
  | .idle => idleSample
  | .reset => resetSample

/-- One line assembled (30_encoding.md R81). -/
def assembleLine (l : AsmLine) : Except AsmError PortSample :=
  if lineWellFormed l then .ok (lineSample l) else .error .immediateOutOfRange

/-- Lines assembled in order, one edge each; the first refusal ends the assembly. -/
def assembleLines : List AsmLine → Except AsmError (List PortSample)
  | [] => .ok []
  | l :: rest =>
    match assembleLine l with
    | .error e => .error e
    | .ok p =>
      match assembleLines rest with
      | .error e => .error e
      | .ok ps => .ok (p :: ps)

/-- `PUSHS`: one PUSH per character, in order (30_encoding.md R82). -/
def pushText (text : List Byte) : List AsmLine := text.map fun b => .push b.toNat

/-- `PUSHB`: one PUSH per byte, in order (30_encoding.md R82). -/
def pushBytes (bytes : List Nat) : List AsmLine := bytes.map .push

/-- `TYPE`: four PUSHes; a text that is not exactly 4 bytes is refused (30_encoding.md R82). -/
def expandType (text : List Byte) : Except AsmError (List AsmLine) :=
  if text.length = 4 then .ok (pushText text) else .error .textNotFourBytes

/-- START, TYPE, then `rest`. -/
def expandComputation (text : List Byte) (rest : List AsmLine) : Except AsmError (List AsmLine) :=
  match expandType text with
  | .error e => .error e
  | .ok ls => .ok (.start :: (ls ++ rest))

/-- The expansions of 30_encoding.md R82. -/
def expandPseudo : Pseudo → Except AsmError (List AsmLine)
  | .pushs text => .ok (pushText text)
  | .pushb bytes => .ok (pushBytes bytes)
  | .typeCode text => expandType text
  | .gen text bytes => expandComputation text (pushBytes bytes ++ [.fin])
  | .verify text bytes imm32 => expandComputation text (pushBytes bytes ++ [.chk imm32])
  | .classify text => expandComputation text []

end Sys2Proof.Machine
end

