-- ==== Sys2Proof/Safety.lean ====
section
/-! DEFINITION. The invariants of every state reachable from reset (10_state.md R26), and the words claims about a run use. -/

namespace Sys2Proof.Safety

open Sys2Proof.Machine

/-- The first `n` type-code bytes, `TC[0..n-1]` (00_scope.md R6). -/
def capturedBytes (s : State) : List Byte := (typeBytes s.tc).take s.tcn.toNat

/-- Invariant 7 of 10_state.md R26 for the payload `P`: CRC is the remainder of the captured type bytes and then `P`, and LEN
is the length of `P`. -/
def CrcCovers (s : State) (P : List Byte) : Prop :=
  s.crc = crcBytes 0xFFFFFFFF#32 (capturedBytes s ++ P) ∧ s.len.toNat = P.length

/-- The computation is a complete type code: four bytes, all letters. -/
abbrev TypeCodeComplete (s : State) : Prop := s.tcn = 4#3 ∧ tcLetters s.tc = true

/-- The invariants of 10_state.md R26, by its numbers, and one more (log entry 12). -/
structure BlockInv (s : State) : Prop where
  /-- 1: TCN ≤ 4 and LEN ≤ LEN_MAX, in every phase. -/
  i1 : s.tcn ≤ 4#3 ∧ s.len ≤ Config.lenMax
  /-- 2: PHASE = TYPE implies TCN < 4 and LEN = 0 and CAUSE = 0. -/
  i2 : s.phase = .type → s.tcn < 4#3 ∧ s.len = 0#32 ∧ s.cause = .none
  /-- 3: PHASE = DATA implies TCN = 4, four letters, LEN ≤ LEN_MAX and CAUSE = 0. -/
  i3 : s.phase = .data → TypeCodeComplete s ∧ s.len ≤ Config.lenMax ∧ s.cause = .none
  /-- 4: PHASE = DONE implies the same. -/
  i4 : s.phase = .done → TypeCodeComplete s ∧ s.len ≤ Config.lenMax ∧ s.cause = .none
  /-- 5: PHASE = FAULT implies 1 ≤ CAUSE ≤ 6, and CAUSE = 0 implies PHASE ≠ FAULT. -/
  i5 : (s.phase = .fault → 1#3 ≤ causeCode s.cause ∧ causeCode s.cause ≤ 6#3) ∧ (s.cause = .none → s.phase ≠ .fault)
  /-- 6: TC[i] = 0x00 for every i ≥ TCN. -/
  i6 : ∀ i : Nat, i < 4 → s.tcn.toNat ≤ i → tcGet s.tc i = 0x00#8
  /-- 7: CRC covers the bytes captured and absorbed, and LEN counts the payload. -/
  i7 : ∃ P : List Byte, CrcCovers s P
  /-- 8: LEN > 0 implies TCN = 4. -/
  i8 : 0#32 < s.len → s.tcn = 4#3
  /-- 9: InvalidTypeCode implies TCN = 4, some TC[i] not a letter, LEN = 0. -/
  i9 : s.cause = .invalidTypeCode → s.tcn = 4#3 ∧ tcLetters s.tc = false ∧ s.len = 0#32
  /-- 10: TruncatedInput implies TCN < 4. -/
  i10 : s.cause = .truncatedInput → s.tcn < 4#3
  /-- 11: InvalidChunkLength implies LEN = LEN_MAX and TCN = 4. -/
  i11 : s.cause = .invalidChunkLength → s.len = Config.lenMax ∧ s.tcn = 4#3
  /-- DEDUCED from 40_typecode.md R97, not one of R26's eleven: the causes raised in DATA or DONE leave a complete type code
  (log entry 12). -/
  i12 : s.cause = .invalidChunkLength ∨ s.cause = .invalidCrc ∨ s.cause = .illegalSequence → TypeCodeComplete s

/-- Two states have the same registers (10_state.md R20); their pending input may differ. -/
def SameRegisters (s t : State) : Prop := s.toRegisters = t.toRegisters

/-- The computation of the state has ended (70_reset_and_hazards.md R206). -/
def Ended (s : State) : Prop := s.phase = .done ∨ s.phase = .fault

/-- A step is safe when it leaves a next state: nothing the spec describes stops the block (70_reset_and_hazards.md R206). -/
def StepSafe (s : State) : Prop := ∃ t, step s = .next t

end Sys2Proof.Safety
end

