-- ==== Sys2Proof/Certificates/Slice0/Obligations.lean ====
section
/-! DEFINITION. The statements for the provers, made from the numbered rules of spec/. Helper definitions first, under
Sys2Proof.Claims; then the statements in the order of OBLIGATIONS.json. -/

namespace Sys2Proof.Claims

open Sys2Proof.Machine Sys2Proof.Safety

/-- One step of the equivalent form of the byte update: `(c >> 1) xor (0xEDB88320 if c[0] = 1 else 0)` (41_crc32.md R113). -/
def shiftStep (c : Word32) : Word32 := (c >>> 1) ^^^ (if c.getLsbD 0 then 0xEDB88320#32 else 0#32)

/-- `op` of a word, by division (30_encoding.md R70). -/
def opNat (w : Command) : Nat := w.toNat / 2 ^ 32

/-- `arg` of a word, by remainder (30_encoding.md R70). -/
def argNat (w : Command) : Nat := w.toNat % 2 ^ 32

/-- The bytes of a text of four ASCII characters as a type code. -/
def tcOf (b0 b1 b2 b3 : Byte) : TypeCode := { b0 := b0, b1 := b1, b2 := b2, b3 := b3 }

/-- The word is not START. -/
def NotStart (w : Command) : Prop := decode w ≠ .ok .start

/-- The registers the spec gives for reset and START (10_state.md R36, 42_commands.md R131), with a given input stream. -/
def startState (rest : List PortSample) : State :=
  { crc := 0xFFFFFFFF#32, tc := tcOf 0#8 0#8 0#8 0#8, tcn := 0#3, len := 0#32, phase := .type, cause := .none,
    pending := rest }

/-- The edges at which the host presents the given commands, one each. -/
def present (cs : List Instr) : List PortSample := cs.map fun i => commandSample (encode i)

/-- START, the four type bytes, the data bytes, and the ending command (42_commands.md R147). -/
def sequence (t : TypeCode) (d : List Byte) (last : Instr) : List PortSample :=
  present ([.start, .push t.b0, .push t.b1, .push t.b2, .push t.b3] ++ d.map .push ++ [last])

/-- The state after the whole sequence, its edges consumed. -/
def runSequence (t : TypeCode) (d : List Byte) (last : Instr) (s : State) (rest : List PortSample) :
    Host.Outcome State Fault Refusal :=
  Host.Core.run core (d.length + 6) { s with pending := sequence t d last ++ rest }

/-- The cells of the phase table of 42_commands.md R143: PHASE and CAUSE after an accepted word, from the state before and
what the word decodes to. -/
def phaseAfter (s : State) (k : Except IllegalWord Instr) : Phase × Cause :=
  match s.phase, k with
  | _, .ok .start => (.type, .none)
  | .fault, _ => (.fault, s.cause)
  | _, .error _ => (.fault, .illegalCommand)
  | .type, .ok (.push b) =>
    if s.tcn.toNat ≤ 2 then (.type, .none)
    else if tcLetters (tcOf s.tc.b0 s.tc.b1 s.tc.b2 b) then (.data, .none) else (.fault, .invalidTypeCode)
  | .type, .ok _ => (.fault, .truncatedInput)
  | .data, .ok (.push _) => if s.len.toNat < 2 ^ 31 then (.data, .none) else (.fault, .invalidChunkLength)
  | .data, .ok .fin => (.done, .none)
  | .data, .ok (.chk e) => if crcVal s = e then (.done, .none) else (.fault, .invalidCrc)
  | .done, .ok _ => (.fault, .illegalSequence)

end Sys2Proof.Claims

section
open Sys2Proof Sys2Proof.Machine Sys2Proof.Safety Sys2Proof.Claims

/-! ### Encoding -/

/-- Words of 95_test_vectors.md section 5: the legal ones decode to the command listed there; the ones listed there as ILLEGAL
are refused. The section lists no reasons: the names of the refusals are the model's own (DESIGN CHOICE, log entry 11). -/
def Obligations.DecodesSpecWords : Prop :=
  decode 0x100000000#36 = .ok .start ∧ decode 0x200000041#36 = .ok (.push 0x41#8) ∧
  decode 0x2000000FF#36 = .ok (.push 0xFF#8) ∧ decode 0x300000000#36 = .ok .fin ∧
  decode 0x4AE426082#36 = .ok (.chk 0xAE426082#32) ∧ decode 0x100000001#36 = .error .startReservedBits ∧
  decode 0x280000041#36 = .error .pushReservedBits ∧ decode 0x300000001#36 = .error .finReservedBits ∧
  decode 0x000000041#36 = .error .reservedOpcode ∧ decode 0xFFFFFFFFF#36 = .error .reservedOpcode

/-- Decoder and encoder agree in both directions (30_encoding.md, sections 1 to 3): every command decodes from its own word,
and every word that decodes to a command is that command's own word, so no two words mean one command. -/
def Obligations.DecodeEncodeAgree : Prop :=
  (∀ i : Instr, wellFormed i = true → decode (encode i) = .ok i) ∧
  ∀ (w : Command) (i : Instr), decode w = .ok i → wellFormed i = true ∧ encode i = w

/-- 30_encoding.md R75: a word selects a command exactly when `(cmd and mask) = match`; at most one row matches a word; the
operand bits of the patterns are the operands. -/
def Obligations.OpcodeMapSelects : Prop :=
  ∀ w : Command,
    (decode w = .ok .start ↔ w &&& 0xFFFFFFFFF#36 = 0x100000000#36) ∧
    ((∃ b, decode w = .ok (.push b)) ↔ w &&& 0xFFFFFFF00#36 = 0x200000000#36) ∧
    (decode w = .ok .fin ↔ w &&& 0xFFFFFFFFF#36 = 0x300000000#36) ∧
    ((∃ e, decode w = .ok (.chk e)) ↔ w &&& 0xF00000000#36 = 0x400000000#36) ∧
    (∀ b, decode w = .ok (.push b) → b = w.extractLsb' 0 8) ∧
    (∀ e, decode w = .ok (.chk e) → e = w.extractLsb' 0 32) ∧
    (opcodeRows.filter (rowSelects · w)).length ≤ 1

/-- 30_encoding.md R77, with `op` and `arg` by division and remainder: the decoder, total on the 2^36 words. -/
def Obligations.DecoderReadsFields : Prop :=
  ∀ w : Command,
    (opNat w = 1 ∧ argNat w = 0 → decode w = .ok .start) ∧
    (opNat w = 2 ∧ argNat w / 2 ^ 8 = 0 → decode w = .ok (.push (BitVec.ofNat 8 (argNat w)))) ∧
    (opNat w = 3 ∧ argNat w = 0 → decode w = .ok .fin) ∧
    (opNat w = 4 → decode w = .ok (.chk (BitVec.ofNat 32 (argNat w)))) ∧
    (¬(opNat w = 1 ∧ argNat w = 0) → ¬(opNat w = 2 ∧ argNat w / 2 ^ 8 = 0) → ¬(opNat w = 3 ∧ argNat w = 0) →
      opNat w ≠ 4 → ∃ e, decode w = .error e)

/-- 30_encoding.md section 4: which words are illegal, case by case, and that each is named by its case (the names are the
model's own, log entry 11). -/
def Obligations.IllegalWordsByCase : Prop :=
  ∀ w : Command,
    (decode w = .error .reservedOpcode ↔ opNat w = 0 ∨ 5 ≤ opNat w) ∧
    (decode w = .error .startReservedBits ↔ opNat w = 1 ∧ argNat w ≠ 0) ∧
    (decode w = .error .pushReservedBits ↔ opNat w = 2 ∧ argNat w / 2 ^ 8 ≠ 0) ∧
    (decode w = .error .finReservedBits ↔ opNat w = 3 ∧ argNat w ≠ 0) ∧
    ((∃ e, decode w = .error e) ↔ wellFormedWord w = false)

/-- 30_encoding.md section 3, the count the spec derives from the opcode map: exactly 4294967554 of the 2^36 words are
commands. -/
def Obligations.LegalWordCount : Prop :=
  Nat.card { w : Command // ∃ i, decode w = .ok i } = 4294967554

/-! ### The CRC -/

/-- 41_crc32.md R111: the generator polynomial's exponents, its reversal, and bit 31 of the reversal.
The spec marks the parameter set as from general knowledge (GK1; log entry 5). -/
def Obligations.PolynomialConstants : Prop :=
  Config.crcPoly = ([26, 23, 22, 16, 12, 11, 10, 8, 7, 5, 4, 2, 1, 0].map fun e => 1#32 <<< e).foldl (· ||| ·) 0#32 ∧
  Config.crcPoly = 0x04C11DB7#32 ∧ Config.crcPolyRefl = 0xEDB88320#32 ∧
  (∀ i : Fin 32, Config.crcPolyRefl.getLsbD i = Config.crcPoly.getLsbD (31 - i)) ∧ Config.crcPolyRefl.getLsbD 31 = true

/-- 41_crc32.md R112 and R113: one bit; one byte, its bits in the order b[0] to b[7]; the equivalent form; the worked example
with its eight steps; the corner cases. -/
def Obligations.CrcByteForms : Prop :=
  (∀ (c : Word32) (d : Bool), crcBit c d = if c.getLsbD 0 = d then c >>> 1 else (c >>> 1) ^^^ 0xEDB88320#32) ∧
  (∀ (c : Word32) (b : Byte), crcByte c b = (List.range 8).foldl (fun r i => crcBit r (b.getLsbD i)) c) ∧
  (∀ (c : Word32) (b : Byte), crcByte c b = shiftStep^[8] (c ^^^ b.zeroExtend 32)) ∧
  (∀ (c : Word32) (b : Byte), crcByte c b = crcByte (c ^^^ b.zeroExtend 32) 0x00#8) ∧
  0xFFFFFFFF#32 ^^^ (0x49#8).zeroExtend 32 = 0xFFFFFFB6#32 ∧
  ((List.range 8).map fun n => shiftStep^[n + 1] 0xFFFFFFB6#32) =
    [0x7FFFFFDB#32, 0xD2477CCD#32, 0x849B3D46#32, 0x424D9EA3#32, 0xCC9E4C71#32, 0x8BF7A518#32, 0x45FBD28C#32,
      0x22FDE946#32] ∧
  crcByte 0xFFFFFFFF#32 0x49#8 = 0x22FDE946#32 ∧ crcByte 0#32 0#8 = 0#32 ∧
  crcByte 0xFFFFFFFF#32 0xFF#8 = 0x00FFFFFF#32 ∧ crcByte 0xFFFFFFFF#32 0x00#8 = 0x2DFD1072#32 ∧
  crcByte 0x00000001#32 0x00#8 = 0x77073096#32 ∧ crcByte 0x80000000#32 0x00#8 = 0x00800000#32

/-- 41_crc32.md R115: the checksum, of no bytes, of "IEND"; and the check value of the parameter set, of "123456789".
The spec marks the parameter set as from general knowledge (GK1; log entry 5). -/
def Obligations.ChecksumValues : Prop :=
  (∀ s : List Byte, crc32 s = crcBytes 0xFFFFFFFF#32 s ^^^ 0xFFFFFFFF#32) ∧ crc32 [] = 0#32 ∧
  crc32 [0x49#8, 0x45#8, 0x4E#8, 0x44#8] = 0xAE426082#32 ∧
  crc32 [0x31#8, 0x32#8, 0x33#8, 0x34#8, 0x35#8, 0x36#8, 0x37#8, 0x38#8, 0x39#8] = 0xCBF43926#32

/-- 41_crc32.md section 2: a sequence may be absorbed in pieces, which is what one PUSH at a time rests on. -/
def Obligations.CrcAbsorbsInPieces : Prop :=
  ∀ (c : Word32) (s t : List Byte), crcBytes c [] = c ∧ crcBytes c (s ++ t) = crcBytes (crcBytes c s) t

/-- 41_crc32.md section 3, the table form, with the table's spot values of section 5. -/
def Obligations.CrcTableForm : Prop :=
  (∀ (c : Word32) (b : Byte), crcByte c b = crcTable ((c ^^^ b.zeroExtend 32).extractLsb' 0 8) ^^^ (c >>> 8)) ∧
  crcTable 0x00#8 = 0#32 ∧ crcTable 0x01#8 = 0x77073096#32 ∧ crcTable 0x80#8 = 0xEDB88320#32 ∧
  crcTable 0xFF#8 = 0x2D02EF8D#32

/-- 41_crc32.md section 3, the polynomial form: with M the message, F the sum of x^0 to x^31 and G the generator over GF(2),
the register after a sequence of n bytes holds (M x^32 + F x^(8n)) mod G, bit j the coefficient of x^(31-j). -/
def Obligations.CrcPolynomialForm : Prop :=
  ∀ s : List Byte,
    let bits : List Bool := s.flatMap bitsInOrder
    let X : Polynomial (ZMod 2) := Polynomial.X
    let M : Polynomial (ZMod 2) :=
      (Finset.range (8 * s.length)).sum fun i => if bits.getD i false then X ^ (8 * s.length - 1 - i) else 0
    let F : Polynomial (ZMod 2) := (Finset.range 32).sum fun i => X ^ i
    let G : Polynomial (ZMod 2) :=
      X ^ 32 + X ^ 26 + X ^ 23 + X ^ 22 + X ^ 16 + X ^ 12 + X ^ 11 + X ^ 10 + X ^ 8 + X ^ 7 + X ^ 5 + X ^ 4 + X ^ 2 + X + 1
    let R : Polynomial (ZMod 2) := (M * X ^ 32 + F * X ^ (8 * s.length)) %ₘ G
    R.degree < 32 ∧ ∀ j : Nat, j < 32 → ((crcBytes 0xFFFFFFFF#32 s).getLsbD j = true ↔ R.coeff (31 - j) = 1)

/-- 41_crc32.md section 4: linearity of the byte update and of equal-length sequences over GF(2). -/
def Obligations.CrcLinear : Prop :=
  (∀ (c d : Word32) (a b : Byte), crcByte (c ^^^ d) (a ^^^ b) = crcByte c a ^^^ crcByte d b) ∧
  ∀ (c d : Word32) (s t : List Byte), s.length = t.length →
    crcBytes (c ^^^ d) (List.zipWith (· ^^^ ·) s t) = crcBytes c s ^^^ crcBytes d t

/-- 41_crc32.md section 4: for every byte the update is a bijection of the register; only the zero register absorbs a zero
byte to zero. -/
def Obligations.CrcByteBijective : Prop :=
  (∀ b : Byte, Function.Bijective fun c : Word32 => crcByte c b) ∧ ∀ c : Word32, crcByte c 0x00#8 = 0#32 → c = 0#32

/-- 41_crc32.md section 4: two sequences of one length that differ in exactly one bit have different checksums. -/
def Obligations.SingleBitFlipDetected : Prop :=
  ∀ (pre post : List Byte) (b : Byte) (k : Nat), k < 8 →
    crc32 (pre ++ (b ^^^ (1#8 <<< k)) :: post) ≠ crc32 (pre ++ b :: post)

/-- 20_memory.md section 2: the bytes of a 32-bit field and the number they denote are inverse, and a crc field laid out
that way, read back as CHK's operand, is accepted in phase DATA. -/
def Obligations.CrcFieldBytes : Prop :=
  (∀ b0 b1 b2 b3 : Byte, serBe32 (deBe32 b0 b1 b2 b3) = [b0, b1, b2, b3]) ∧
  ∀ (s : State) (b0 b1 b2 b3 : Byte), s.phase = .data → serBe32 (crcVal s) = [b0, b1, b2, b3] →
    exec (.chk (deBe32 b0 b1 b2 b3)) s = .next { s with phase := .done }

/-! ### The TypeCode decoder -/

/-- 40_typecode.md R90: the letter test, its bit-level form, the count of letters, the corner cases and the examples.
The spec marks the letters' codes as from general knowledge (GK2; log entry 5). -/
def Obligations.LetterTest : Prop :=
  (∀ b : Byte, isLetter b = true ↔ (0x41#8 ≤ b ∧ b ≤ 0x5A#8) ∨ (0x61#8 ≤ b ∧ b ≤ 0x7A#8)) ∧
  (∀ b : Byte, isLetter b = true ↔
    b.extractLsb' 6 2 = 1#2 ∧ 1#5 ≤ b.extractLsb' 0 5 ∧ b.extractLsb' 0 5 ≤ 26#5) ∧
  ((List.range 256).filter fun n => isLetter (BitVec.ofNat 8 n)).length = 52 ∧
  (∀ b ∈ [0x40#8, 0x5B#8, 0x60#8, 0x7B#8, 0x00#8], isLetter b = false) ∧
  (∀ b : Byte, 0x30#8 ≤ b ∧ b ≤ 0x39#8 → isLetter b = false) ∧ (∀ b : Byte, 0x80#8 ≤ b → isLetter b = false) ∧
  isLetter 0x52#8 = true ∧ isLetter 0x31#8 = false

/-- 40_typecode.md R91: the acceptance condition of four bytes, its STATUS bit, and that it is 0 while fewer than four bytes
are captured. -/
def Obligations.TcLettersRule : Prop :=
  (∀ t : TypeCode, tcLetters t = true ↔
    isLetter t.b0 = true ∧ isLetter t.b1 = true ∧ isLetter t.b2 = true ∧ isLetter t.b3 = true) ∧
  (∀ s : State, (statusView s).getLsbD 8 = tcLetters s.tc) ∧
  (∀ s : State, BlockInv s → s.tcn < 4#3 → tcLetters s.tc = false) ∧
  tcLetters (tcOf 0x52#8 0x75#8 0x53#8 0x74#8) = true ∧ tcLetters (tcOf 0x52#8 0x75#8 0x31#8 0x74#8) = false

/-- 40_typecode.md R92 to R96: the four properties are bit tests, three true when the bit is clear and one when it is set;
is_valid is the third; each has its STATUS bit; the source's examples. -/
def Obligations.PropertyPolarities : Prop :=
  (∀ t : TypeCode,
    (isCritical t = true ↔ t.b0 &&& 0x20#8 = 0#8) ∧ (isCritical t = true ↔ t.b0.getLsbD 5 = false) ∧
    (isPublic t = true ↔ t.b1 &&& 0x20#8 = 0#8) ∧ (isPublic t = true ↔ t.b1.getLsbD 5 = false) ∧
    (isReservedBitValid t = true ↔ t.b2 &&& 0x20#8 = 0#8) ∧ (isReservedBitValid t = true ↔ t.b2.getLsbD 5 = false) ∧
    (isSafeToCopy t = true ↔ t.b3 &&& 0x20#8 = 0x20#8) ∧ (isSafeToCopy t = true ↔ t.b3.getLsbD 5 = true) ∧
    isValid t = isReservedBitValid t) ∧
  (∀ s : State,
    (statusView s).getLsbD 9 = isCritical s.tc ∧ (statusView s).getLsbD 10 = isPublic s.tc ∧
    (statusView s).getLsbD 11 = isReservedBitValid s.tc ∧ (statusView s).getLsbD 11 = isValid s.tc ∧
    (statusView s).getLsbD 12 = isSafeToCopy s.tc) ∧
  isCritical (tcOf 0x52#8 0x75#8 0x53#8 0x74#8) = true ∧ isCritical (tcOf 0x72#8 0x75#8 0x53#8 0x74#8) = false ∧
  isPublic (tcOf 0x52#8 0x75#8 0x53#8 0x74#8) = false ∧ isReservedBitValid (tcOf 0x52#8 0x75#8 0x53#8 0x74#8) = true ∧
  isReservedBitValid (tcOf 0x52#8 0x75#8 0x73#8 0x74#8) = false ∧ isValid (tcOf 0x52#8 0x75#8 0x73#8 0x74#8) = false ∧
  isSafeToCopy (tcOf 0x52#8 0x75#8 0x53#8 0x74#8) = true ∧ isSafeToCopy (tcOf 0x49#8 0x45#8 0x4E#8 0x44#8) = false

/-- 40_typecode.md R97: TC_OK by its definition, and by phase and cause in every state that meets the invariants. -/
def Obligations.TcOkByPhase : Prop :=
  (∀ s : State, tcOk s = true ↔ s.tcn = 4#3 ∧ tcLetters s.tc = true) ∧
  ∀ s : State, BlockInv s →
    (s.phase = .data ∨ s.phase = .done → tcOk s = true) ∧
    (s.phase = .type → tcOk s = false) ∧
    (s.phase = .fault → s.cause = .invalidTypeCode ∨ s.cause = .truncatedInput → tcOk s = false) ∧
    (s.phase = .fault → s.cause = .invalidChunkLength ∨ s.cause = .invalidCrc → tcOk s = true)

/-- 40_typecode.md section 3: for a letter, bit 5 clear means upper case and set means lower case; all sixteen combinations of
the properties occur among four-letter type codes. -/
def Obligations.CaseReading : Prop :=
  (∀ b : Byte, isLetter b = true →
    (b.getLsbD 5 = false ↔ 0x41#8 ≤ b ∧ b ≤ 0x5A#8) ∧ (b.getLsbD 5 = true ↔ 0x61#8 ≤ b ∧ b ≤ 0x7A#8)) ∧
  ∀ p0 p1 p2 p3 : Bool, ∃ t : TypeCode, tcLetters t = true ∧ isCritical t = p0 ∧ isPublic t = p1 ∧
    isReservedBitValid t = p2 ∧ isSafeToCopy t = p3

/-! ### State and views -/

/-- 10_state.md R27 and 60_exceptions.md R161: the numeric codes of PHASE and CAUSE; and CAUSE is None exactly
outside phase FAULT in every state that meets the invariants (10_state.md R25). -/
def Obligations.PhaseAndCauseCodes : Prop :=
  phaseCode .type = 0#2 ∧ phaseCode .data = 1#2 ∧ phaseCode .done = 2#2 ∧ phaseCode .fault = 3#2 ∧
  causeCode .none = 0#3 ∧ causeCode .invalidTypeCode = 1#3 ∧ causeCode .invalidChunkLength = 2#3 ∧
  causeCode .invalidCrc = 3#3 ∧ causeCode .truncatedInput = 4#3 ∧ causeCode .illegalCommand = 5#3 ∧
  causeCode .illegalSequence = 6#3 ∧ (∀ c : Cause, causeCode c ≠ 7#3) ∧
  ∀ s : State, BlockInv s → (s.cause = .none ↔ s.phase ≠ .fault)

/-- 10_state.md R34: STATUS field by field, its reserved bits, and its value after reset. -/
def Obligations.StatusFields : Prop :=
  (∀ s : State,
    (statusView s).extractLsb' 0 2 = phaseCode s.phase ∧ (statusView s).extractLsb' 2 3 = causeCode s.cause ∧
    (statusView s).extractLsb' 5 3 = s.tcn ∧ (statusView s).getLsbD 8 = tcLetters s.tc ∧
    (statusView s).getLsbD 9 = !s.tc.b0.getLsbD 5 ∧ (statusView s).getLsbD 10 = !s.tc.b1.getLsbD 5 ∧
    (statusView s).getLsbD 11 = !s.tc.b2.getLsbD 5 ∧ (statusView s).getLsbD 12 = s.tc.b3.getLsbD 5 ∧
    (statusView s).getLsbD 13 = (decide (s.tcn = 4#3) && tcLetters s.tc) ∧
    (statusView s).extractLsb' 14 18 = 0#18) ∧
  (∀ s t : State, s.tc = t.tc → s.tcn = t.tcn → (statusView s).extractLsb' 8 6 = (statusView t).extractLsb' 8 6) ∧
  statusView State.reset = 0x00000E00#32

/-- 10_state.md R32, R33, R35 and 20_memory.md R58: the read-select map, the packing of TYPE, and the two wires. -/
def Obligations.ReadPort : Prop :=
  (∀ s : State,
    rdata 0#2 s = s.crc ^^^ 0xFFFFFFFF#32 ∧ rdata 1#2 s = typeView s ∧ rdata 2#2 s = s.len ∧
    rdata 3#2 s = statusView s ∧
    (typeView s).extractLsb' 24 8 = s.tc.b0 ∧ (typeView s).extractLsb' 16 8 = s.tc.b1 ∧
    (typeView s).extractLsb' 8 8 = s.tc.b2 ∧ (typeView s).extractLsb' 0 8 = s.tc.b3 ∧
    (faultWire s = true ↔ s.phase = .fault) ∧ (doneWire s = true ↔ s.phase = .done)) ∧
  ∀ s t : State, typeView s = typeView t ↔ s.tc = t.tc

/-- 10_state.md R31: CRCVAL is CRC xor 0xFFFFFFFF; where CRC covers the payload `P`, it is the CRC-32/IEEE of the captured
type bytes and then `P`, in phase DONE of the four type bytes and then `P`. And CRC covers exactly the bytes absorbed since
START or reset: none right after either, with CRCVAL 0; a PUSH in phase TYPE appends its byte to the captured ones; a PUSH
in phase DATA below the bound appends its byte to the payload; any other accepted word appends nothing. -/
def Obligations.CrcvalIsChecksumOfAbsorbed : Prop :=
  (∀ s : State, crcVal s = s.crc ^^^ 0xFFFFFFFF#32) ∧
  (∀ (s : State) (P : List Byte), CrcCovers s P →
    P.length = s.len.toNat ∧ crcVal s = crc32 (capturedBytes s ++ P) ∧
    (BlockInv s → s.phase = .done → crcVal s = crc32 (typeBytes s.tc ++ P))) ∧
  (∀ s : State, ∃ t, exec .start s = .next t ∧ capturedBytes t = [] ∧ CrcCovers t [] ∧ crcVal t = 0x00000000#32) ∧
  (∀ (s : State) (p : PortSample) (rest : List PortSample), s.pending = p :: rest → p.rst = true →
    ∃ t, step s = .next t ∧ capturedBytes t = [] ∧ CrcCovers t [] ∧ crcVal t = 0x00000000#32) ∧
  (capturedBytes State.reset = [] ∧ CrcCovers State.reset [] ∧ crcVal State.reset = 0x00000000#32) ∧
  (∀ (b : Byte) (s : State), s.phase = .type → s.tcn ≤ 3#3 → CrcCovers s [] →
    ∃ t, exec (.push b) s = .next t ∧ capturedBytes t = capturedBytes s ++ [b] ∧ CrcCovers t []) ∧
  (∀ (b : Byte) (s : State) (P : List Byte), s.phase = .data → s.len < 0x80000000#32 → CrcCovers s P →
    ∃ t, exec (.push b) s = .next t ∧ capturedBytes t = capturedBytes s ∧ CrcCovers t (P ++ [b])) ∧
  ∀ (w : Command) (s t : State) (P : List Byte), acceptWord w s = .next t → NotStart w →
    (∀ b, decode w = .ok (.push b) → ¬(s.phase = .type ∨ s.phase = .data ∧ s.len < 0x80000000#32)) →
    CrcCovers s P → capturedBytes t = capturedBytes s ∧ CrcCovers t P

/-- 10_state.md section 8: there is no hidden state: the four views determine every register. -/
def Obligations.ViewsDetermineRegisters : Prop :=
  ∀ s t : State, (∀ rsel : BitVec 2, rdata rsel s = rdata rsel t) → SameRegisters s t

/-- 10_state.md R36: every register and view after reset; the same registers as after START, from any state. The empty input
stream of State.reset is the model's choice (log entry 1) and is not stated. -/
def Obligations.ResetState : Prop :=
  State.reset.crc = 0xFFFFFFFF#32 ∧ State.reset.tc = tcOf 0x00#8 0x00#8 0x00#8 0x00#8 ∧ State.reset.tcn = 0#3 ∧
  State.reset.len = 0#32 ∧ State.reset.phase = .type ∧ State.reset.cause = .none ∧
  rdata 0#2 State.reset = 0x00000000#32 ∧ rdata 1#2 State.reset = 0x00000000#32 ∧
  rdata 2#2 State.reset = 0x00000000#32 ∧ rdata 3#2 State.reset = 0x00000E00#32 ∧
  faultWire State.reset = false ∧ doneWire State.reset = false ∧
  ∀ s : State, ∃ t, exec .start s = .next t ∧ SameRegisters t State.reset

/-! ### The commands -/

/-- 42_commands.md R131: START, from any state; it changes nothing in the START state; what leaves FAULT, or leaves DONE other
than by a fault, is START; the worked example. -/
def Obligations.StartInitialises : Prop :=
  (∀ s : State, exec .start s = .next (startState s.pending)) ∧
  (∀ rest : List PortSample, statusView (startState rest) = 0x00000E00#32) ∧
  (∀ s : State, SameRegisters s State.reset → exec .start s = .next s) ∧
  (∀ (i : Instr) (s t : State), exec i s = .next t →
    (s.phase = .fault → t.phase ≠ .fault → i = .start) ∧
    (s.phase = .done → t.phase ≠ .done → t.phase ≠ .fault → i = .start)) ∧
  ∀ rest : List PortSample,
    exec .start
      { crc := 0x2D43C08C#32, tc := tcOf 0x52#8 0x75#8 0x53#8 0x74#8, tcn := 4#3, len := 2#32, phase := .fault,
        cause := .invalidCrc, pending := rest } = .next (startState rest)

/-- 42_commands.md R133: a type byte before the fourth is stored as it is, counted and absorbed, with no letter check; PHASE
stays TYPE; TC_LETTERS and TC_OK stay 0; the worked example. -/
def Obligations.PushCapturesTypeByte : Prop :=
  (∀ (b : Byte) (s : State), s.phase = .type →
    (s.tcn = 0#3 → exec (.push b) s =
      .next { s with tc := { s.tc with b0 := b }, tcn := 1#3, crc := crcByte s.crc b }) ∧
    (s.tcn = 1#3 → exec (.push b) s =
      .next { s with tc := { s.tc with b1 := b }, tcn := 2#3, crc := crcByte s.crc b }) ∧
    (s.tcn = 2#3 → exec (.push b) s =
      .next { s with tc := { s.tc with b2 := b }, tcn := 3#3, crc := crcByte s.crc b })) ∧
  (∀ (b : Byte) (s t : State), BlockInv s → s.phase = .type → s.tcn ≤ 2#3 → exec (.push b) s = .next t →
    (statusView t).getLsbD 8 = false ∧ (statusView t).getLsbD 13 = false) ∧
  ∀ rest : List PortSample, ∃ t, exec (.push 0x52#8) (startState rest) = .next t ∧ t.tc.b0 = 0x52#8 ∧ t.tcn = 1#3 ∧
    t.crc = 0xA89820AA#32 ∧ crcVal t = 0x5767DF55#32 ∧ t.phase = .type

/-- 42_commands.md R134: the fourth type byte is captured and absorbed, then all four are checked: DATA, or InvalidTypeCode
with the three writes kept. The check looks at the four bytes alone; from then on STATUS bits 8 to 13 are final until START.
The worked examples, and a reserved-bit-invalid type code that goes to DATA. -/
def Obligations.PushCompletesTypeCode : Prop :=
  (∀ (b : Byte) (s : State), s.phase = .type → s.tcn = 3#3 →
    (tcLetters (tcOf s.tc.b0 s.tc.b1 s.tc.b2 b) = true → exec (.push b) s =
      .next { s with tc := { s.tc with b3 := b }, tcn := 4#3, crc := crcByte s.crc b, phase := .data }) ∧
    (tcLetters (tcOf s.tc.b0 s.tc.b1 s.tc.b2 b) = false → exec (.push b) s =
      .next { s with tc := { s.tc with b3 := b }, tcn := 4#3, crc := crcByte s.crc b, phase := .fault,
                     cause := .invalidTypeCode })) ∧
  (∀ s : State, s.phase = .type → s.tcn = 3#3 → s.cause = .none → s.tc.b0 = 0x52#8 → s.tc.b1 = 0x75#8 →
    (s.tc.b2 = 0x53#8 → s.crc = 0xCFAC51CE#32 → ∃ t, exec (.push 0x74#8) s = .next t ∧ t.tc.b3 = 0x74#8 ∧ t.tcn = 4#3 ∧
      t.crc = 0x2B7BF6C3#32 ∧ t.phase = .data ∧ statusView t = 0x00003B81#32) ∧
    (s.tc.b2 = 0x31#8 → s.crc = 0x6C1051BA#32 → ∃ t, exec (.push 0x74#8) s = .next t ∧ t.tc.b3 = 0x74#8 ∧ t.tcn = 4#3 ∧
      t.crc = 0x7CB0FFE6#32 ∧ t.phase = .fault ∧ t.cause = .invalidTypeCode) ∧
    (s.tc.b2 = 0x73#8 → ∃ t, exec (.push 0x74#8) s = .next t ∧ t.phase = .data)) ∧
  ∀ (i : Instr) (s t : State), s.tcn = 4#3 → i ≠ .start → exec i s = .next t →
    (statusView t).extractLsb' 8 6 = (statusView s).extractLsb' 8 6

/-- 42_commands.md R136: a payload byte below the bound is absorbed, whatever its value; the counter does not overflow; no
STATUS bit changes; the worked example. -/
def Obligations.PushAbsorbsPayload : Prop :=
  (∀ (b : Byte) (s : State), s.phase = .data → s.len < 0x80000000#32 →
    exec (.push b) s = .next { s with crc := crcByte s.crc b, len := s.len + 1#32 } ∧
    (s.len + 1#32).toNat = s.len.toNat + 1 ∧
    statusView { s with crc := crcByte s.crc b, len := s.len + 1#32 } = statusView s) ∧
  ∀ s : State, s.phase = .data → s.tc = tcOf 0x52#8 0x75#8 0x53#8 0x74#8 → s.crc = 0x2B7BF6C3#32 → s.len = 0#32 →
    ∃ t u, exec (.push 0x68#8) s = .next t ∧ t.crc = 0x412F0196#32 ∧ t.len = 1#32 ∧
      exec (.push 0x69#8) t = .next u ∧ u.crc = 0x2D43C08C#32 ∧ crcVal u = 0xD2BC3F73#32 ∧ u.len = 2#32

/-- 42_commands.md R137: a payload byte at the bound is not absorbed; InvalidChunkLength; nothing but PHASE and CAUSE
changes. A payload of exactly 2^31 bytes is accepted: the byte that makes LEN = 2^31 is absorbed. -/
def Obligations.PushRefusesPastBound : Prop :=
  (∀ (b : Byte) (s : State), s.phase = .data → s.len = 0x80000000#32 →
    exec (.push b) s = .next { s with phase := .fault, cause := .invalidChunkLength }) ∧
  ∀ (b : Byte) (s : State), s.phase = .data → s.len = 0x7FFFFFFF#32 →
    exec (.push b) s = .next { s with crc := crcByte s.crc b, len := 0x80000000#32 }

/-- 42_commands.md R138: PUSH after the end of a computation; the finished CRCVAL, TYPE and LEN stay readable. -/
def Obligations.PushAfterEnd : Prop :=
  ∀ (b : Byte) (s : State), s.phase = .done →
    ∃ t, exec (.push b) s = .next t ∧ t = { s with phase := .fault, cause := .illegalSequence } ∧
      crcVal t = crcVal s ∧ typeView t = typeView s ∧ lenView t = lenView s

/-- 42_commands.md R139: FIN by phase; `done` becomes 1 on success; TCN does not matter in TYPE; the worked example. -/
def Obligations.FinByPhase : Prop :=
  (∀ s : State,
    (s.phase = .type → exec .fin s = .next { s with phase := .fault, cause := .truncatedInput }) ∧
    (s.phase = .data → exec .fin s = .next { s with phase := .done } ∧ doneWire { s with phase := .done } = true) ∧
    (s.phase = .done → exec .fin s = .next { s with phase := .fault, cause := .illegalSequence }) ∧
    (s.phase = .fault → exec .fin s = .next s)) ∧
  ∀ s : State, s.phase = .data → s.tc = tcOf 0x49#8 0x45#8 0x4E#8 0x44#8 → s.crc = 0x51BD9F7D#32 → s.len = 0#32 →
    ∃ t, exec .fin s = .next t ∧ t.phase = .done ∧ rdata 0#2 t = 0xAE426082#32 ∧ rdata 2#2 t = 0#32

/-- 42_commands.md R140: CHK by phase; in DATA the comparison of all 32 bits of CRC xor 0xFFFFFFFF with the operand; elsewhere
the operand is not looked at; the wires; the worked examples. -/
def Obligations.ChkByPhase : Prop :=
  (∀ (e : Word32) (s : State),
    (s.phase = .type → exec (.chk e) s = .next { s with phase := .fault, cause := .truncatedInput }) ∧
    (s.phase = .data → s.crc ^^^ 0xFFFFFFFF#32 = e →
      exec (.chk e) s = .next { s with phase := .done } ∧ doneWire { s with phase := .done } = true) ∧
    (s.phase = .data → s.crc ^^^ 0xFFFFFFFF#32 ≠ e →
      exec (.chk e) s = .next { s with phase := .fault, cause := .invalidCrc } ∧
      faultWire { s with phase := .fault, cause := .invalidCrc } = true) ∧
    (s.phase = .done → exec (.chk e) s = .next { s with phase := .fault, cause := .illegalSequence }) ∧
    (s.phase = .fault → exec (.chk e) s = .next s)) ∧
  ∀ s : State, s.phase = .data → s.crc = 0x2D43C08C#32 →
    exec (.chk 0xD2BC3F73#32) s = .next { s with phase := .done } ∧
    exec (.chk 0xD2BC3F72#32) s = .next { s with phase := .fault, cause := .invalidCrc }

/-- 42_commands.md R141 and 60_exceptions.md R168: an accepted illegal word; the examples. -/
def Obligations.IllegalWordRaises : Prop :=
  (∀ (w : Command) (s : State), (∃ e, decode w = .error e) →
    (s.phase = .type ∨ s.phase = .data ∨ s.phase = .done →
      acceptWord w s = .next { s with phase := .fault, cause := .illegalCommand }) ∧
    (s.phase = .fault → acceptWord w s = .next s)) ∧
  ∀ s : State, s.phase = .type → ∀ w ∈ [0x000000000#36, 0x200000100#36, 0x300000001#36],
    acceptWord w s = .next { s with phase := .fault, cause := .illegalCommand }

/-- 42_commands.md R132 has no row for PUSH in phase TYPE with TCN above 3 or in phase DATA with LEN above LEN_MAX, states that
10_state.md R26 excludes. The model's choice, log entry 3: there, and nowhere else, PUSH is refused. -/
def Obligations.PushStopsOnlyOutsideInvariants : Prop :=
  ∀ (i : Instr) (s : State),
    ((∃ b, i = .push b) ∧ (s.phase = .type ∧ 3#3 < s.tcn ∨ s.phase = .data ∧ 0x80000000#32 < s.len) →
      exec i s = .refused .outsideInvariants) ∧
    (¬((∃ b, i = .push b) ∧ (s.phase = .type ∧ 3#3 < s.tcn ∨ s.phase = .data ∧ 0x80000000#32 < s.len)) →
      ∃ t, exec i s = .next t)

/-! ### Faults -/

/-- 60_exceptions.md R165: fault entry, precisely. An accepted word that takes the block from another phase into FAULT changes
PHASE and CAUSE and nothing else, but for InvalidTypeCode, on which the three writes of the fourth type byte stand, always;
and no later word has any effect until START. -/
def Obligations.FaultEntryWrites : Prop :=
  ∀ (w : Command) (s t : State), s.phase ≠ .fault → acceptWord w s = .next t → t.phase = .fault →
    t.cause ≠ .none ∧
    (t.cause ≠ .invalidTypeCode ∧ t = { s with phase := .fault, cause := t.cause } ∨
      ∃ b, decode w = .ok (.push b) ∧ s.phase = .type ∧ s.tcn = 3#3 ∧
        t = { s with tc := { s.tc with b3 := b }, tcn := 4#3, crc := crcByte s.crc b, phase := .fault,
                     cause := .invalidTypeCode }) ∧
    faultWire t = true ∧ ∀ w' : Command, NotStart w' → acceptWord w' t = .next t

/-- 60_exceptions.md R164, R168, R169 and the other conditions of the table of R161: each cause is raised exactly when its
condition holds. -/
def Obligations.CausesRaisedExactlyWhen : Prop :=
  ∀ (w : Command) (s t : State), s.phase ≠ .fault → acceptWord w s = .next t →
    (t.phase = .fault ∧ t.cause = .invalidTypeCode ↔ ∃ b, decode w = .ok (.push b) ∧ s.phase = .type ∧ s.tcn = 3#3 ∧
      tcLetters (tcOf s.tc.b0 s.tc.b1 s.tc.b2 b) = false) ∧
    (t.phase = .fault ∧ t.cause = .invalidChunkLength ↔ ∃ b, decode w = .ok (.push b) ∧ s.phase = .data ∧
      s.len = 0x80000000#32) ∧
    (t.phase = .fault ∧ t.cause = .invalidCrc ↔ ∃ e, decode w = .ok (.chk e) ∧ s.phase = .data ∧ crcVal s ≠ e) ∧
    (t.phase = .fault ∧ t.cause = .truncatedInput ↔ (decode w = .ok .fin ∨ ∃ e, decode w = .ok (.chk e)) ∧
      s.phase = .type) ∧
    (t.phase = .fault ∧ t.cause = .illegalCommand ↔ ∃ e, decode w = .error e) ∧
    (t.phase = .fault ∧ t.cause = .illegalSequence ↔
      ((∃ b, decode w = .ok (.push b)) ∨ decode w = .ok .fin ∨ ∃ e, decode w = .ok (.chk e)) ∧ s.phase = .done)

/-- 60_exceptions.md R167: in phase FAULT every accepted word but START, legal or not, leaves every register as it is; reads
work as in any phase. -/
def Obligations.FaultIgnoresAllButStart : Prop :=
  ∀ (w : Command) (s : State), s.phase = .fault → NotStart w →
    acceptWord w s = .next s ∧
    ∀ (p : PortSample) (rest : List PortSample), s.pending = p :: rest → p.rst = false → p.cmdValid = true → p.cmd = w →
      ∃ t, step s = .next t ∧ t = { s with pending := rest } ∧ ∀ rsel : BitVec 2, rdata rsel t = rdata rsel s

/-- 60_exceptions.md R174: the only ways out of phase FAULT are START and reset, and both discard the faulted computation
entirely; every other step keeps every register, CAUSE among them. -/
def Obligations.FaultLeftOnlyByStartOrReset : Prop :=
  (∀ s t : State, s.phase = .fault → step s = .next t → t.phase ≠ .fault →
    ∃ p rest, s.pending = p :: rest ∧ (p.rst = true ∨ p.cmdValid = true ∧ p.cmd = 0x100000000#36) ∧
      t = startState rest) ∧
  (∀ s t : State, s.phase = .fault → step s = .next t → t.phase = .fault → SameRegisters t s) ∧
  ∀ (s : State) (p : PortSample) (rest : List PortSample), s.phase = .fault → s.pending = p :: rest →
    p.rst = true ∨ p.cmdValid = true ∧ p.cmd = 0x100000000#36 → step s = .next (startState rest)

/-- 42_commands.md section 7, the complete transition table: in every state that meets the invariants every accepted word
answers a next state, with the table's PHASE and CAUSE. -/
def Obligations.PhaseTransitionTable : Prop :=
  ∀ (w : Command) (s : State), BlockInv s → ∃ t, acceptWord w s = .next t ∧ (t.phase, t.cause) = phaseAfter s (decode w)

/-! ### Frames and whole-machine rules -/

/-- 10_state.md section 1, the column "written by": what each command leaves unchanged when it answers a next state; CAUSE
changes only by START or on entering FAULT from another phase. The input stream is touched by none. -/
def Obligations.RegistersWrittenOnlyByTheirCommands : Prop :=
  ∀ (i : Instr) (s t : State), exec i s = .next t →
    t.pending = s.pending ∧
    (i = .fin ∨ (∃ e, i = .chk e) → t.crc = s.crc ∧ t.tc = s.tc ∧ t.tcn = s.tcn ∧ t.len = s.len) ∧
    (∀ b, i = .push b →
      (s.phase ≠ .type → t.tc = s.tc ∧ t.tcn = s.tcn) ∧ (s.phase ≠ .data → t.len = s.len) ∧
      (s.phase = .done ∨ s.phase = .fault → t.crc = s.crc)) ∧
    (t.cause ≠ s.cause → i = .start ∨ s.phase ≠ .fault ∧ t.phase = .fault)

/-- 10_state.md section 2: TC is immutable once complete. A step from a state with TCN = 4 keeps TC and TCN, or the edge it
consumed was a reset or an accepted START, and it leaves the START state. -/
def Obligations.TypeCodeImmutable : Prop :=
  ∀ s t : State, s.tcn = 4#3 → step s = .next t →
    (t.tc = s.tc ∧ t.tcn = s.tcn) ∨
      ∃ p rest, s.pending = p :: rest ∧ (p.rst = true ∨ p.cmdValid = true ∧ decode p.cmd = .ok .start) ∧
        t = startState rest

/-- 40_typecode.md section 3 and 20_memory.md section 1: START, PUSH and FIN do the same to every other register whatever CRC
holds, and a payload byte's value reaches CRC alone. -/
def Obligations.ControlIndependentOfCrc : Prop :=
  (∀ (i : Instr) (s t : State) (c : Word32), (∀ e, i ≠ .chk e) → exec i s = .next t →
    ∃ c', exec i { s with crc := c } = .next { t with crc := c' }) ∧
  ∀ (b b' : Byte) (s t : State), s.phase = .data → exec (.push b) s = .next t →
    ∃ c', exec (.push b') s = .next { t with crc := c' }

/-! ### Steps and the invariants -/

/-- 42_commands.md R130: a step. The nearest pending port values are consumed; rst = 1 is Reset; cmd_valid = 0 is Idle; else
the word is decoded and its command runs on the state with the input consumed, an illegal word raises, and in phase FAULT
all but START leave the state. That a step with nothing pending is Idle is the model's own (log entry 1). -/
def Obligations.StepDispatch : Prop :=
  (∀ s : State, s.pending = [] → step s = .next s) ∧
  ∀ (s : State) (p : PortSample) (rest : List PortSample), s.pending = p :: rest →
    (p.rst = true → step s = .next (startState rest)) ∧
    (p.rst = false → p.cmdValid = false → step s = .next { s with pending := rest }) ∧
    (p.rst = false → p.cmdValid = true →
      (∀ i, decode p.cmd = .ok i → step s = exec i { s with pending := rest }) ∧
      (∀ i, decode p.cmd = .ok i → s.phase = .fault → i ≠ .start → step s = .next { s with pending := rest }) ∧
      (∀ e, decode p.cmd = .error e → s.phase ≠ .fault →
        step s = .next { s with pending := rest, phase := .fault, cause := .illegalCommand }) ∧
      (∀ e, decode p.cmd = .error e → s.phase = .fault → step s = .next { s with pending := rest }))

/-- 70_reset_and_hazards.md R191 and R192: a reset step, from any state, whatever the other ports hold; the command presented
with it is lost; the views after it. -/
def Obligations.ResetHasPriority : Prop :=
  (∀ (s : State) (v : Bool) (w : Command) (rest : List PortSample),
    s.pending = { rst := true, cmdValid := v, cmd := w } :: rest → step s = .next (startState rest)) ∧
  ∀ rest : List PortSample,
    rdata 0#2 (startState rest) = 0#32 ∧ rdata 1#2 (startState rest) = 0#32 ∧ rdata 2#2 (startState rest) = 0#32 ∧
    rdata 3#2 (startState rest) = 0x00000E00#32 ∧ faultWire (startState rest) = false ∧
    doneWire (startState rest) = false ∧ exec .start (startState rest) = .next (startState rest) ∧
    SameRegisters (startState rest) State.reset

/-- 42_commands.md R146: any number of idle edges, whatever is on `cmd`, change no register. -/
def Obligations.IdleChangesNothing : Prop :=
  ∀ (words : List Command) (s : State) (rest : List PortSample),
    s.pending = (words.map fun w => { rst := false, cmdValid := false, cmd := w }) ++ rest →
    Host.Core.run core words.length s = .next { s with pending := rest }

/-- The invariants hold at reset. -/
def Obligations.InvHoldsAtReset : Prop := BlockInv State.reset

/-- Every step keeps the invariants of 10_state.md section 3, among them that CRC is the remainder of exactly the bytes
absorbed and LEN counts the payload; from every state that meets them, reached or not. -/
def Obligations.StepKeepsInv : Prop := ∀ s t : State, BlockInv s → step s = .next t → BlockInv t

/-- 70_reset_and_hazards.md section 5: no hangs, no stuck states: from a state that meets the invariants every step answers a
next state, and so does every run of any length. -/
def Obligations.EveryStepAnswers : Prop :=
  (∀ s : State, BlockInv s → StepSafe s) ∧
  ∀ (k : Nat) (s : State), BlockInv s → ∃ t, Host.Core.run core k s = .next t ∧ BlockInv t

/-! ### Whole sequences -/

/-- 42_commands.md section 9: what START, the four type bytes, n data bytes and FIN or CHK end in, from any state. -/
def Obligations.SequenceEndStates : Prop :=
  ∀ (s : State) (t : TypeCode) (d : List Byte) (rest : List PortSample) (last : Instr),
    last = .fin ∨ (∃ e, last = .chk e) →
    (tcLetters t = false → runSequence t d last s rest = .next
      { crc := crc32 (typeBytes t) ^^^ 0xFFFFFFFF#32, tc := t, tcn := 4#3, len := 0#32, phase := .fault,
        cause := .invalidTypeCode, pending := rest }) ∧
    (tcLetters t = true → 2 ^ 31 < d.length → runSequence t d last s rest = .next
      { crc := crc32 (typeBytes t ++ d.take (2 ^ 31)) ^^^ 0xFFFFFFFF#32, tc := t, tcn := 4#3, len := 0x80000000#32,
        phase := .fault, cause := .invalidChunkLength, pending := rest }) ∧
    (tcLetters t = true → d.length ≤ 2 ^ 31 →
      (last = .fin ∨ last = .chk (crc32 (typeBytes t ++ d)) → runSequence t d last s rest = .next
        { crc := crc32 (typeBytes t ++ d) ^^^ 0xFFFFFFFF#32, tc := t, tcn := 4#3, len := BitVec.ofNat 32 d.length,
          phase := .done, cause := .none, pending := rest }) ∧
      (∀ e, last = .chk e → e ≠ crc32 (typeBytes t ++ d) → runSequence t d last s rest = .next
        { crc := crc32 (typeBytes t ++ d) ^^^ 0xFFFFFFFF#32, tc := t, tcn := 4#3, len := BitVec.ofNat 32 d.length,
          phase := .fault, cause := .invalidCrc, pending := rest }))

/-- 42_commands.md section 9, last paragraph: the round trip. Generating, reading CRCVAL, and verifying the same type and data
against it ends in DONE with the same TYPE, LEN and CRCVAL. -/
def Obligations.GenerateThenVerify : Prop :=
  ∀ (s s' u : State) (t : TypeCode) (d : List Byte) (rest rest' : List PortSample), tcLetters t = true →
    d.length ≤ 2 ^ 31 → runSequence t d .fin s rest = .next u →
    ∃ v, runSequence t d (.chk (rdata 0#2 u)) s' rest' = .next v ∧ v.phase = .done ∧ v.cause = .none ∧
      rdata 0#2 v = rdata 0#2 u ∧ rdata 1#2 v = rdata 1#2 u ∧ rdata 2#2 v = rdata 2#2 u

/-- 90_conflicts.md C2: one flipped bit in the type or data bytes of a good chunk, verified against the unchanged crc, ends in
InvalidCRC while the four type bytes are still letters, and in InvalidTypeCode when they are not. -/
def Obligations.FlippedBitRejected : Prop :=
  ∀ (s : State) (t t' : TypeCode) (d d' pre post : List Byte) (b : Byte) (k : Nat) (rest : List PortSample),
    tcLetters t = true → d.length ≤ 2 ^ 31 → k < 8 → typeBytes t ++ d = pre ++ b :: post →
    typeBytes t' ++ d' = pre ++ (b ^^^ (1#8 <<< k)) :: post →
    ∃ u, runSequence t' d' (.chk (crc32 (typeBytes t ++ d))) s rest = .next u ∧ u.phase = .fault ∧
      u.cause = (if tcLetters t' then .invalidCrc else .invalidTypeCode)

/-! ### Assembler -/

/-- 30_encoding.md section 6: an assembled line puts on the ports the word of its command, and a line whose immediate is out of
range is refused. -/
def Obligations.AssembledLinesEncode : Prop :=
  assembleLine .start = .ok (commandSample (encode .start)) ∧ assembleLine .fin = .ok (commandSample (encode .fin)) ∧
  (∀ n : Nat, n ≤ 255 → assembleLine (.push n) = .ok (commandSample (encode (.push (BitVec.ofNat 8 n))))) ∧
  (∀ n : Nat, n ≤ 0xFFFFFFFF → assembleLine (.chk n) = .ok (commandSample (encode (.chk (BitVec.ofNat 32 n))))) ∧
  (∀ n : Nat, n < 2 ^ 36 → assembleLine (.word n) = .ok (commandSample (BitVec.ofNat 36 n))) ∧
  (∀ n : Nat, 255 < n → assembleLine (.push n) = .error .immediateOutOfRange) ∧
  (∀ n : Nat, 0xFFFFFFFF < n → assembleLine (.chk n) = .error .immediateOutOfRange) ∧
  (∃ p, assembleLine .idle = .ok p ∧ inputOf p = .idle) ∧ ∃ p, assembleLine .reset = .ok p ∧ inputOf p = .reset

/-- 30_encoding.md section 6: the pseudo-instructions, on a four-byte text and on any other. VERIFY assembles to the edges of
the whole sequence of 42_commands.md section 9. -/
def Obligations.PseudoExpansions : Prop :=
  (∀ (t : TypeCode) (d : List Byte) (e : Word32),
    expandPseudo (.pushs d) = .ok (d.map fun b => .push b.toNat) ∧
    expandPseudo (.pushb (d.map BitVec.toNat)) = .ok (d.map fun b => .push b.toNat) ∧
    expandPseudo (.typeCode (typeBytes t)) =
      .ok [.push t.b0.toNat, .push t.b1.toNat, .push t.b2.toNat, .push t.b3.toNat] ∧
    expandPseudo (.classify (typeBytes t)) =
      .ok [.start, .push t.b0.toNat, .push t.b1.toNat, .push t.b2.toNat, .push t.b3.toNat] ∧
    (∃ ls, expandPseudo (.gen (typeBytes t) (d.map BitVec.toNat)) = .ok ls ∧
      assembleLines ls = .ok (sequence t d .fin)) ∧
    ∃ ls, expandPseudo (.verify (typeBytes t) (d.map BitVec.toNat) e.toNat) = .ok ls ∧
      assembleLines ls = .ok (sequence t d (.chk e))) ∧
  ∀ (text : List Byte) (bytes : List Nat) (n : Nat), text.length ≠ 4 →
    expandPseudo (.typeCode text) = .error .textNotFourBytes ∧ expandPseudo (.classify text) = .error .textNotFourBytes ∧
    expandPseudo (.gen text bytes) = .error .textNotFourBytes ∧
    expandPseudo (.verify text bytes n) = .error .textNotFourBytes

/-! ### The block's state is the six registers -/

/-- 10_state.md section 1: the whole state of the block is the six registers. A step is `step(S, input)` of 42_commands.md
section 1 on the registers and the input of the nearest edge: the input still to come after it decides nothing and is left
as it is, and no view or wire reads it. -/
def Obligations.RegistersAndInputDecide : Prop :=
  (∀ (s : State) (p : PortSample) (rest : List PortSample), s.pending = p :: rest →
    (∀ S', step s = .next { toRegisters := S', pending := rest } ↔ blockStep s.toRegisters (inputOf p) = .next S') ∧
    (∀ r, step s = .refused r ↔ blockStep s.toRegisters (inputOf p) = .refused r) ∧
    ∀ t, step s = .next t → t.pending = rest) ∧
  ∀ s t : State, SameRegisters s t →
    (∀ rsel : BitVec 2, rdata rsel s = rdata rsel t) ∧ faultWire s = faultWire t ∧ doneWire s = doneWire t

end
end

