-- ==== Sys2Proof/Laws/Crc.lean ====
section
/-! SUPPORT. The small lemmas of the CRC functions (41_crc32.md R112 to R114). -/

namespace Sys2Proof.Machine

@[simp] theorem crcBytes_nil (c : Word32) : crcBytes c [] = c := rfl

@[simp] theorem crcBytes_cons (c : Word32) (b : Byte) (s : List Byte) :
    crcBytes c (b :: s) = crcBytes (crcByte c b) s := rfl

/-- The last byte of a sequence is absorbed last. -/
theorem crcBytes_concat (c : Word32) (s : List Byte) (b : Byte) :
    crcBytes c (s ++ [b]) = crcByte (crcBytes c s) b := by
  simp [crcBytes]

/-- A byte is its eight bits, bit 0 first. -/
theorem crcByte_eq_foldl (c : Word32) (b : Byte) : crcByte c b = (bitsInOrder b).foldl crcBit c := rfl

@[simp] theorem bitsInOrder_length (b : Byte) : (bitsInOrder b).length = 8 := rfl

/-- One bit, with the register bit and the data bit equal: a plain shift (41_crc32.md R112). -/
theorem crcBit_of_eq {c : Word32} {d : Bool} (h : c.getLsbD 0 = d) : crcBit c d = c >>> 1 := by
  have h' : ¬(c.getLsbD 0 ^^ d) = true := by simpa using h
  unfold crcBit
  exact if_neg h'

/-- One bit, with the register bit and the data bit different: the polynomial enters (41_crc32.md R112). -/
theorem crcBit_of_ne {c : Word32} {d : Bool} (h : c.getLsbD 0 ≠ d) : crcBit c d = c >>> 1 ^^^ Config.crcPolyRefl := by
  have h' : (c.getLsbD 0 ^^ d) = true := by simpa using h
  unfold crcBit
  exact if_pos h'

end Sys2Proof.Machine
end

