-- ==== Sys2Proof/Laws/Decode.lean ====
section
/-! SUPPORT. The fields of a command word and of a built word (30_encoding.md R70 to R74). -/

namespace Sys2Proof

theorem opField_toNat (w : Command) : (opField w).toNat = w.toNat / 2 ^ 32 := by
  have := w.isLt
  simp only [opField, BitVec.extractLsb'_toNat, Nat.shiftRight_eq_div_pow]
  omega

theorem argField_toNat (w : Command) : (argField w).toNat = w.toNat % 2 ^ 32 := by
  simp [argField]

theorem byteField_toNat (w : Command) : (byteField w).toNat = w.toNat % 2 ^ 8 := by
  simp [byteField]

theorem reservedB_toNat (w : Command) : (reservedB w).toNat = w.toNat % 2 ^ 32 / 2 ^ 8 := by
  simp only [reservedB, BitVec.extractLsb'_toNat, Nat.shiftRight_eq_div_pow]
  omega

theorem wordOf_toNat (op : BitVec 4) (arg : Word32) : (wordOf op arg).toNat = op.toNat * 2 ^ 32 + arg.toNat := by
  have h : (wordOf op arg).toNat = op.toNat <<< 32 ||| arg.toNat := BitVec.toNat_append op arg
  rw [h, ← Nat.shiftLeft_add_eq_or_of_lt arg.isLt, Nat.shiftLeft_eq]

theorem wordOf_getLsbD (op : BitVec 4) (arg : Word32) (j : Nat) :
    (wordOf op arg).getLsbD j = if j < 32 then arg.getLsbD j else op.getLsbD (j - 32) :=
  BitVec.getLsbD_append

@[simp] theorem opField_wordOf (op : BitVec 4) (arg : Word32) : opField (wordOf op arg) = op := by
  apply BitVec.eq_of_toNat_eq
  have := arg.isLt
  rw [opField_toNat, wordOf_toNat]
  omega

@[simp] theorem argField_wordOf (op : BitVec 4) (arg : Word32) : argField (wordOf op arg) = arg := by
  apply BitVec.eq_of_toNat_eq
  have := arg.isLt
  rw [argField_toNat, wordOf_toNat]
  omega

/-- A word is its two fields (30_encoding.md R70). -/
theorem wordOf_fields (w : Command) : wordOf (opField w) (argField w) = w := by
  apply BitVec.eq_of_toNat_eq
  rw [wordOf_toNat, opField_toNat, argField_toNat]
  omega

theorem byteField_eq (w : Command) : byteField w = (argField w).extractLsb' 0 8 := by
  apply BitVec.eq_of_toNat_eq
  simp only [byteField_toNat, BitVec.extractLsb'_toNat, argField_toNat, Nat.shiftRight_zero]
  omega

theorem reservedB_eq (w : Command) : reservedB w = (argField w).extractLsb' 8 24 := by
  apply BitVec.eq_of_toNat_eq
  simp only [reservedB_toNat, BitVec.extractLsb'_toNat, argField_toNat, Nat.shiftRight_eq_div_pow]
  omega

end Sys2Proof
end

