-- ==== Sys2Proof/Laws/State.lean ====
section
/-! SUPPORT. One lemma per field per register operation of Machine/Ops.lean, so that no proof unfolds a record update. -/

namespace Sys2Proof.Machine

/-- The registers right after START and after reset are those of the reset state (10_state.md R36). -/
@[simp] theorem startComputation_toRegisters (s : State) : (startComputation s).toRegisters = State.reset.toRegisters := rfl
@[simp] theorem resetRegisters_toRegisters (s : State) : (resetRegisters s).toRegisters = State.reset.toRegisters := rfl

@[simp] theorem raiseFault_crc (c : Cause) (s : State) : (raiseFault c s).crc = s.crc := rfl
@[simp] theorem raiseFault_tc (c : Cause) (s : State) : (raiseFault c s).tc = s.tc := rfl
@[simp] theorem raiseFault_tcn (c : Cause) (s : State) : (raiseFault c s).tcn = s.tcn := rfl
@[simp] theorem raiseFault_len (c : Cause) (s : State) : (raiseFault c s).len = s.len := rfl
@[simp] theorem raiseFault_phase (c : Cause) (s : State) : (raiseFault c s).phase = .fault := rfl
@[simp] theorem raiseFault_cause (c : Cause) (s : State) : (raiseFault c s).cause = c := rfl
@[simp] theorem raiseFault_pending (c : Cause) (s : State) : (raiseFault c s).pending = s.pending := rfl

@[simp] theorem startComputation_crc (s : State) : (startComputation s).crc = Config.crcInit := rfl
@[simp] theorem startComputation_tc (s : State) : (startComputation s).tc = { b0 := 0x00#8, b1 := 0x00#8, b2 := 0x00#8, b3 := 0x00#8 } := rfl
@[simp] theorem startComputation_tcn (s : State) : (startComputation s).tcn = 0#3 := rfl
@[simp] theorem startComputation_len (s : State) : (startComputation s).len = 0#32 := rfl
@[simp] theorem startComputation_phase (s : State) : (startComputation s).phase = .type := rfl
@[simp] theorem startComputation_cause (s : State) : (startComputation s).cause = .none := rfl
@[simp] theorem startComputation_pending (s : State) : (startComputation s).pending = s.pending := rfl

@[simp] theorem resetRegisters_crc (s : State) : (resetRegisters s).crc = Config.crcInit := rfl
@[simp] theorem resetRegisters_tc (s : State) : (resetRegisters s).tc = { b0 := 0x00#8, b1 := 0x00#8, b2 := 0x00#8, b3 := 0x00#8 } := rfl
@[simp] theorem resetRegisters_tcn (s : State) : (resetRegisters s).tcn = 0#3 := rfl
@[simp] theorem resetRegisters_len (s : State) : (resetRegisters s).len = 0#32 := rfl
@[simp] theorem resetRegisters_phase (s : State) : (resetRegisters s).phase = .type := rfl
@[simp] theorem resetRegisters_cause (s : State) : (resetRegisters s).cause = .none := rfl
@[simp] theorem resetRegisters_pending (s : State) : (resetRegisters s).pending = s.pending := rfl

@[simp] theorem captureTypeByte_crc (b : Byte) (s : State) : (captureTypeByte b s).crc = crcByte s.crc b := rfl
@[simp] theorem captureTypeByte_tc (b : Byte) (s : State) : (captureTypeByte b s).tc = tcSet s.tc s.tcn.toNat b := rfl
@[simp] theorem captureTypeByte_tcn (b : Byte) (s : State) : (captureTypeByte b s).tcn = s.tcn + 1#3 := rfl
@[simp] theorem captureTypeByte_len (b : Byte) (s : State) : (captureTypeByte b s).len = s.len := rfl
@[simp] theorem captureTypeByte_phase (b : Byte) (s : State) : (captureTypeByte b s).phase = s.phase := rfl
@[simp] theorem captureTypeByte_cause (b : Byte) (s : State) : (captureTypeByte b s).cause = s.cause := rfl
@[simp] theorem captureTypeByte_pending (b : Byte) (s : State) : (captureTypeByte b s).pending = s.pending := rfl

@[simp] theorem finishComputation_crc (s : State) : (finishComputation s).crc = s.crc := rfl
@[simp] theorem finishComputation_tc (s : State) : (finishComputation s).tc = s.tc := rfl
@[simp] theorem finishComputation_tcn (s : State) : (finishComputation s).tcn = s.tcn := rfl
@[simp] theorem finishComputation_len (s : State) : (finishComputation s).len = s.len := rfl
@[simp] theorem finishComputation_phase (s : State) : (finishComputation s).phase = .done := rfl
@[simp] theorem finishComputation_cause (s : State) : (finishComputation s).cause = s.cause := rfl
@[simp] theorem finishComputation_pending (s : State) : (finishComputation s).pending = s.pending := rfl

/-- The fourth type byte writes TC, TCN and CRC whether or not it faults (42_commands.md R134). -/
@[simp] theorem completeTypeCode_crc (b : Byte) (s : State) : (completeTypeCode b s).crc = crcByte s.crc b := by
  simp only [completeTypeCode]; split <;> simp

@[simp] theorem completeTypeCode_tc (b : Byte) (s : State) : (completeTypeCode b s).tc = tcSet s.tc s.tcn.toNat b := by
  simp only [completeTypeCode]; split <;> simp

@[simp] theorem completeTypeCode_tcn (b : Byte) (s : State) : (completeTypeCode b s).tcn = s.tcn + 1#3 := by
  simp only [completeTypeCode]; split <;> simp

@[simp] theorem completeTypeCode_len (b : Byte) (s : State) : (completeTypeCode b s).len = s.len := by
  simp only [completeTypeCode]; split <;> simp

@[simp] theorem completeTypeCode_pending (b : Byte) (s : State) : (completeTypeCode b s).pending = s.pending := by
  simp only [completeTypeCode]; split <;> simp

@[simp] theorem illegalWord_of_fault {s : State} (h : s.phase = .fault) : illegalWord s = s := by
  simp [illegalWord, h]

theorem illegalWord_of_not_fault {s : State} (h : s.phase ≠ .fault) : illegalWord s = raiseFault .illegalCommand s := by
  cases hp : s.phase <;> simp_all [illegalWord]

@[simp] theorem illegalWord_crc (s : State) : (illegalWord s).crc = s.crc := by
  cases hp : s.phase <;> simp [illegalWord, hp]

@[simp] theorem illegalWord_tc (s : State) : (illegalWord s).tc = s.tc := by
  cases hp : s.phase <;> simp [illegalWord, hp]

@[simp] theorem illegalWord_tcn (s : State) : (illegalWord s).tcn = s.tcn := by
  cases hp : s.phase <;> simp [illegalWord, hp]

@[simp] theorem illegalWord_len (s : State) : (illegalWord s).len = s.len := by
  cases hp : s.phase <;> simp [illegalWord, hp]

@[simp] theorem illegalWord_pending (s : State) : (illegalWord s).pending = s.pending := by
  cases hp : s.phase <;> simp [illegalWord, hp]

end Sys2Proof.Machine
end

