-- ==== Sys2Proof/Laws/Ops.lean ====
section
/-! SUPPORT. What each shared operation, each meaning, an accepted word, an edge and a step can do, said once: if it answers
a next state, one of the cases holds. Proofs cite these and do not unfold the definitions. -/

namespace Sys2Proof.Machine

/-- The two ways a payload byte is taken (42_commands.md R136, R137). -/
theorem absorbPayload_cases {m : Word32} {b : Byte} {s t : State} (h : absorbPayload m b s = .next t) :
    (s.len < m ∧ t = { s with crc := crcByte s.crc b, len := s.len + 1#32 }) ∨
      (s.len = m ∧ t = raiseFault .invalidChunkLength s) := by
  unfold absorbPayload at h
  split at h
  · rename_i hlt
    exact .inl ⟨hlt, by simpa using h.symm⟩
  · split at h
    · rename_i heq
      exact .inr ⟨heq, by simpa using h.symm⟩
    · cases h

/-- A payload byte within the bound is always taken. -/
theorem absorbPayload_next {m : Word32} (b : Byte) {s : State} (h : s.len ≤ m) :
    ∃ t, absorbPayload m b s = .next t := by
  unfold absorbPayload
  by_cases hlt : s.len < m
  · exact ⟨_, if_pos hlt⟩
  · have heq : s.len = m := by bv_omega
    exact ⟨_, by rw [if_neg hlt, if_pos heq]⟩

/-- The two ends of the fourth type byte (42_commands.md R134). -/
theorem completeTypeCode_cases (b : Byte) (s : State) :
    (tcLetters (tcSet s.tc s.tcn.toNat b) = true ∧
        completeTypeCode b s =
          { s with tc := tcSet s.tc s.tcn.toNat b, tcn := s.tcn + 1#3, crc := crcByte s.crc b, phase := .data }) ∨
      (tcLetters (tcSet s.tc s.tcn.toNat b) = false ∧
        completeTypeCode b s = raiseFault .invalidTypeCode (captureTypeByte b s)) := by
  unfold completeTypeCode
  cases h : tcLetters (tcSet s.tc s.tcn.toNat b) <;> simp [h, captureTypeByte]

/-- START answers one state, whatever the phase (42_commands.md R131). -/
theorem execStart_eq (s : State) : execStart s = .next (startComputation s) := rfl

/-- Everything PUSH can do (42_commands.md R132). -/
theorem execPush_cases {b : Byte} {s t : State} (h : execPush b s = .next t) :
    (s.phase = .type ∧ s.tcn < 3#3 ∧ t = captureTypeByte b s) ∨
    (s.phase = .type ∧ s.tcn = 3#3 ∧ t = completeTypeCode b s) ∨
    (s.phase = .data ∧ s.len < Config.lenMax ∧ t = { s with crc := crcByte s.crc b, len := s.len + 1#32 }) ∨
    (s.phase = .data ∧ s.len = Config.lenMax ∧ t = raiseFault .invalidChunkLength s) ∨
    (s.phase = .done ∧ t = raiseFault .illegalSequence s) ∨
    (s.phase = .fault ∧ t = s) := by
  unfold execPush at h
  split at h
  · rename_i hp
    split at h
    · rename_i hlt
      exact .inl ⟨hp, hlt, by simpa using h.symm⟩
    · split at h
      · rename_i heq
        exact .inr (.inl ⟨hp, heq, by simpa using h.symm⟩)
      · cases h
  · rename_i hp
    rcases absorbPayload_cases h with ⟨hl, ht⟩ | ⟨hl, ht⟩
    · exact .inr (.inr (.inl ⟨hp, hl, ht⟩))
    · exact .inr (.inr (.inr (.inl ⟨hp, hl, ht⟩)))
  · rename_i hp
    exact .inr (.inr (.inr (.inr (.inl ⟨hp, by simpa using h.symm⟩))))
  · rename_i hp
    exact .inr (.inr (.inr (.inr (.inr ⟨hp, by simpa using h.symm⟩))))

/-- Everything FIN can do (42_commands.md R139). -/
theorem execFin_cases {s t : State} (h : execFin s = .next t) :
    (s.phase = .type ∧ t = raiseFault .truncatedInput s) ∨
    (s.phase = .data ∧ t = finishComputation s) ∨
    (s.phase = .done ∧ t = raiseFault .illegalSequence s) ∨
    (s.phase = .fault ∧ t = s) := by
  unfold execFin at h
  cases hp : s.phase <;> simp [hp] at h <;> simp [h.symm]

/-- Everything CHK can do (42_commands.md R140). -/
theorem execChk_cases {e : Word32} {s t : State} (h : execChk e s = .next t) :
    (s.phase = .type ∧ t = raiseFault .truncatedInput s) ∨
    (s.phase = .data ∧ crcVal s = e ∧ t = finishComputation s) ∨
    (s.phase = .data ∧ crcVal s ≠ e ∧ t = raiseFault .invalidCrc s) ∨
    (s.phase = .done ∧ t = raiseFault .illegalSequence s) ∨
    (s.phase = .fault ∧ t = s) := by
  unfold execChk at h
  cases hp : s.phase <;> simp only [hp] at h
  case data =>
    split at h <;> simp_all
  all_goals simp_all

/-- In phase FAULT every command but START leaves the state as it is (60_exceptions.md R167). -/
theorem exec_of_fault {i : Instr} {s : State} (hp : s.phase = .fault) (hi : i ≠ .start) : exec i s = .next s := by
  cases i <;> simp_all [exec, execPush, execFin, execChk]

/-- An accepted word runs the command it decodes to (42_commands.md R130). -/
theorem acceptWord_ok {w : Command} {i : Instr} (h : decode w = .ok i) (s : State) : acceptWord w s = exec i s := by
  simp [acceptWord, h]

/-- An accepted illegal word (42_commands.md R141). -/
theorem acceptWord_error {w : Command} {e : IllegalWord} (h : decode w = .error e) (s : State) :
    acceptWord w s = .next (illegalWord s) := by
  simp [acceptWord, h]

/-- Everything an accepted word can do. -/
theorem acceptWord_cases {w : Command} {s t : State} (h : acceptWord w s = .next t) :
    (∃ i, decode w = .ok i ∧ exec i s = .next t) ∨ (∃ e, decode w = .error e ∧ t = illegalWord s) := by
  cases hd : decode w with
  | ok i => exact .inl ⟨i, rfl, by rwa [acceptWord_ok hd] at h⟩
  | error e => exact .inr ⟨e, rfl, by simpa [acceptWord_error hd] using h.symm⟩

/-- An edge with `rst` = 1 (70_reset_and_hazards.md R190, R191). -/
theorem clockEdge_reset {p : PortSample} (h : p.rst = true) (s : State) : clockEdge p s = .next (resetRegisters s) := by
  simp [clockEdge, takeInput, inputOf, h]

/-- An edge with no command (42_commands.md R146). -/
theorem clockEdge_idle {p : PortSample} (hr : p.rst = false) (hv : p.cmdValid = false) (s : State) :
    clockEdge p s = .next s := by
  simp [clockEdge, takeInput, inputOf, hr, hv]

/-- An edge that accepts a command word (42_commands.md R130). -/
theorem clockEdge_cmd {p : PortSample} (hr : p.rst = false) (hv : p.cmdValid = true) (s : State) :
    clockEdge p s = acceptWord p.cmd s := by
  simp [clockEdge, takeInput, inputOf, hr, hv]

@[simp] theorem clockEdge_commandSample (w : Command) (s : State) : clockEdge (commandSample w) s = acceptWord w s :=
  clockEdge_cmd rfl rfl s

/-- `step(S, input)` on the registers is the transition of an edge with nothing more to come (42_commands.md R130). -/
theorem blockStep_next {S S' : Registers} {i : Input} (h : blockStep S i = .next S') :
    ∃ t, takeInput i { toRegisters := S, pending := [] } = .next t ∧ t.toRegisters = S' := by
  unfold blockStep at h
  cases ht : takeInput i { toRegisters := S, pending := [] } with
  | next t => exact ⟨t, rfl, by simpa [ht] using h⟩
  | fault r => cases r
  | refused r => simp [ht] at h

@[simp] theorem blockStep_idle (S : Registers) : blockStep S .idle = .next S := rfl

@[simp] theorem blockStep_reset (S : Registers) : blockStep S .reset = .next State.reset.toRegisters := rfl

/-- With nothing presented the edge is Idle. -/
theorem step_nil {s : State} (h : s.pending = []) : step s = .next s := by
  simp [step, nextEdge, h]

/-- A step takes the nearest pending port values. -/
theorem step_cons {s : State} {p : PortSample} {rest : List PortSample} (h : s.pending = p :: rest) :
    step s = clockEdge p { s with pending := rest } := by
  simp [step, nextEdge, h]

/-- Everything a step can do: nothing presented, reset, Idle, a command, an illegal word. -/
theorem step_cases {s t : State} (h : step s = .next t) :
    (s.pending = [] ∧ t = s) ∨
    (∃ p rest, s.pending = p :: rest ∧
      ((p.rst = true ∧ t = resetRegisters { s with pending := rest }) ∨
       (p.rst = false ∧ p.cmdValid = false ∧ t = { s with pending := rest }) ∨
       (p.rst = false ∧ p.cmdValid = true ∧ ∃ i, decode p.cmd = .ok i ∧ exec i { s with pending := rest } = .next t) ∨
       (p.rst = false ∧ p.cmdValid = true ∧ ∃ e, decode p.cmd = .error e ∧
          t = illegalWord { s with pending := rest }))) := by
  cases hp : s.pending with
  | nil => exact .inl ⟨rfl, by simpa [step_nil hp] using h.symm⟩
  | cons p rest =>
    rw [step_cons hp] at h
    refine .inr ⟨p, rest, rfl, ?_⟩
    cases hr : p.rst
    · cases hv : p.cmdValid
      · exact .inr (.inl ⟨rfl, rfl, by simpa [clockEdge_idle hr hv] using h.symm⟩)
      · rw [clockEdge_cmd hr hv] at h
        rcases acceptWord_cases h with ⟨i, hi, ht⟩ | ⟨e, he, ht⟩
        · exact .inr (.inr (.inl ⟨rfl, rfl, i, hi, ht⟩))
        · exact .inr (.inr (.inr ⟨rfl, rfl, e, he, ht⟩))
    · exact .inl ⟨rfl, by simpa [clockEdge_reset hr] using h.symm⟩

end Sys2Proof.Machine
end

