-- ==== Sys2Proof/Laws/PerInstr.lean ====
section
/-! SUPPORT. Statements for all commands, one lemma per constructor. `TableRow`: the encoder gives every command a word of its
own row of the opcode map, with every reserved bit 0 (30_encoding.md R71, R72, R73, R75). -/

namespace Sys2Proof.Laws.TableRow

/-- The word of the command is one its row selects. -/
def Statement (i : Instr) : Prop := rowSelects (rowOf i) (encode i) = true

theorem start : Statement .start := by
  unfold Statement; decide

theorem push (byte : Byte) : Statement (.push byte) := by
  unfold Statement
  revert byte
  decide +kernel

theorem fin : Statement .fin := by
  unfold Statement; decide

theorem chk (exp : Word32) : Statement (.chk exp) := by
  simp only [Statement, rowSelects, rowOf, rowChk, encode, beq_iff_eq]
  ext j hj
  simp only [← BitVec.getLsbD_eq_getElem, BitVec.getLsbD_and, wordOf_getLsbD]
  interval_cases j <;> simp

end Sys2Proof.Laws.TableRow
end

