-- ==== Sys2Proof/Laws/Safety.lean ====
section
/-! SUPPORT. The small lemmas of `capturedBytes` (Safety.lean): it depends on TC and TCN alone, is empty after START and reset,
and grows by the byte captured (42_commands.md R131, R133, R134, 70_reset_and_hazards.md R192). -/

namespace Sys2Proof.Safety

open Sys2Proof.Machine

theorem capturedBytes_congr {s t : State} (h : t.tc = s.tc) (hn : t.tcn = s.tcn) : capturedBytes t = capturedBytes s := by
  simp only [capturedBytes, h, hn]

@[simp] theorem capturedBytes_raiseFault (c : Cause) (s : State) : capturedBytes (raiseFault c s) = capturedBytes s := rfl

@[simp] theorem capturedBytes_finishComputation (s : State) : capturedBytes (finishComputation s) = capturedBytes s := rfl

@[simp] theorem capturedBytes_startComputation (s : State) : capturedBytes (startComputation s) = [] := rfl

@[simp] theorem capturedBytes_resetRegisters (s : State) : capturedBytes (resetRegisters s) = [] := rfl

/-- All four bytes, once four are captured. -/
theorem capturedBytes_of_complete {s : State} (h : s.tcn = 4#3) : capturedBytes s = typeBytes s.tc := by
  rw [capturedBytes, h]; rfl

/-- Capturing a byte appends it, while fewer than four are captured. -/
theorem capturedBytes_captureTypeByte (b : Byte) {s : State} (h : s.tcn ≤ 3#3) :
    capturedBytes (captureTypeByte b s) = capturedBytes s ++ [b] := by
  have hn : ∀ n : BitVec 3, n ≤ 3#3 → n = 0#3 ∨ n = 1#3 ∨ n = 2#3 ∨ n = 3#3 := by decide
  rcases hn _ h with h | h | h | h <;> simp [capturedBytes, captureTypeByte, h, tcSet, typeBytes]

end Sys2Proof.Safety
end

