-- ==== Sys2Proof/Laws/Views.lean ====
section
/-! SUPPORT. The bits of the views (10_state.md R32, R34), and runs one step at a time. -/

namespace Sys2Proof.Machine

/-- STATUS bit by bit (10_state.md R34). -/
theorem statusView_getLsbD (s : State) (j : Nat) :
    (statusView s).getLsbD j =
      if j < 2 then (phaseCode s.phase).getLsbD j
      else if j < 5 then (causeCode s.cause).getLsbD (j - 2)
      else if j < 8 then s.tcn.getLsbD (j - 5)
      else if j = 8 then tcLetters s.tc
      else if j = 9 then isCritical s.tc
      else if j = 10 then isPublic s.tc
      else if j = 11 then isReservedBitValid s.tc
      else if j = 12 then isSafeToCopy s.tc
      else if j = 13 then tcOk s
      else false := by
  unfold statusView
  simp only [BitVec.getLsbD_append, BitVec.getLsbD_ofBool]
  rcases Nat.lt_or_ge j 14 with h | h
  · interval_cases j <;> simp
  · simp only [show ¬j < 2 by omega, show ¬j < 5 by omega, show ¬j < 8 by omega, show ¬j = 8 by omega,
      show ¬j = 9 by omega, show ¬j = 10 by omega, show ¬j = 11 by omega, show ¬j = 12 by omega, show ¬j = 13 by omega,
      show ¬j - 2 < 3 by omega, show ¬j - 2 - 3 < 3 by omega, show ¬j - 2 - 3 - 3 < 1 by omega,
      show ¬j - 2 - 3 - 3 - 1 < 1 by omega, show ¬j - 2 - 3 - 3 - 1 - 1 < 1 by omega,
      show ¬j - 2 - 3 - 3 - 1 - 1 - 1 < 1 by omega, show ¬j - 2 - 3 - 3 - 1 - 1 - 1 - 1 < 1 by omega,
      show ¬j - 2 - 3 - 3 - 1 - 1 - 1 - 1 - 1 < 1 by omega, if_false]
    exact BitVec.getLsbD_zero

/-- The bits of four bytes put together, the first most significant (10_state.md R32, 20_memory.md R54). -/
theorem deBe32_getLsbD (b0 b1 b2 b3 : Byte) (j : Nat) :
    (deBe32 b0 b1 b2 b3).getLsbD j =
      if j < 8 then b3.getLsbD j
      else if j - 8 < 8 then b2.getLsbD (j - 8)
      else if j - 8 - 8 < 8 then b1.getLsbD (j - 8 - 8)
      else b0.getLsbD (j - 8 - 8 - 8) := by
  simp only [deBe32, BitVec.getLsbD_append]

theorem typeView_eq_deBe32 (s : State) : typeView s = deBe32 s.tc.b0 s.tc.b1 s.tc.b2 s.tc.b3 := rfl

/-- A run takes its first step, then goes on. -/
theorem run_succ {s t : State} (h : step s = .next t) (k : Nat) :
    Host.Core.run core (k + 1) s = Host.Core.run core k t := by
  have hs : core.step s = .next t := h
  simp only [Host.Core.run, hs]

end Sys2Proof.Machine
end

