-- ==== Sys2Proof/Tests/Slice0.lean ====
section
/-! SUPPORT. Tests. Expected values are the spec's: 95_test_vectors.md, the worked examples of the rules, the table of
41_crc32.md. Then, for each statement that has hypotheses, a named witness that meets them. -/

namespace Sys2Proof.Tests

open Sys2Proof.Machine Sys2Proof.Safety Sys2Proof.Claims

/-- The next state an outcome holds, if it holds one. -/
def nextOf (o : Host.Outcome State Fault Refusal) : Option State :=
  match o with
  | .next s => some s
  | .fault _ => none
  | .refused _ => none

/-- A state from its registers, with nothing pending. -/
def mk (crc : Word32) (b0 b1 b2 b3 : Byte) (tcn : BitVec 3) (len : Word32) (phase : Phase) (cause : Cause) : State :=
  { crc := crc, tc := tcOf b0 b1 b2 b3, tcn := tcn, len := len, phase := phase, cause := cause, pending := [] }

/-- The before-states of 95_test_vectors.md section 6. -/
def sT2 : State := mk 0x16C45765#32 0x52#8 0x75#8 0x00#8 0x00#8 2#3 0#32 .type .none
def sT3 : State := mk 0xCFAC51CE#32 0x52#8 0x75#8 0x53#8 0x00#8 3#3 0#32 .type .none
def sT3x : State := mk 0x6C1051BA#32 0x52#8 0x75#8 0x31#8 0x00#8 3#3 0#32 .type .none
def sD0 : State := mk 0x51BD9F7D#32 0x49#8 0x45#8 0x4E#8 0x44#8 4#3 0#32 .data .none
def sD2 : State := mk 0x2D43C08C#32 0x52#8 0x75#8 0x53#8 0x74#8 4#3 2#32 .data .none
def sDM : State := mk 0x12345678#32 0x49#8 0x44#8 0x41#8 0x54#8 4#3 0x80000000#32 .data .none
def sN : State := mk 0x51BD9F7D#32 0x49#8 0x45#8 0x4E#8 0x44#8 4#3 0#32 .done .none
def sF3 : State := mk 0x2D43C08C#32 0x52#8 0x75#8 0x53#8 0x74#8 4#3 2#32 .fault .invalidCrc
/-- The end of 95_test_vectors.md P4 (V4), "Ru1t". -/
def sF1 : State := mk 0x7CB0FFE6#32 0x52#8 0x75#8 0x31#8 0x74#8 4#3 0#32 .fault .invalidTypeCode
/-- FIN after two type bytes, 95_test_vectors.md P5 step 4. -/
def sF4 : State := mk 0x16C45765#32 0x52#8 0x75#8 0x00#8 0x00#8 2#3 0#32 .fault .truncatedInput

/-! ### Well-formedness: one ill-formed term for each check -/

/-- 30_encoding.md R78, one word per case: op 0, op 5, op F, START, FIN and PUSH with a reserved bit. -/
theorem test_illformed_words_refused :
    [0x000000000#36, 0x500000000#36, 0xF00000000#36, 0x180000000#36, 0x300000001#36, 0x200000100#36].map wellFormedWord =
      [false, false, false, false, false, false] ∧
    [0x000000000#36, 0x500000000#36, 0xF00000000#36, 0x180000000#36, 0x300000001#36, 0x200000100#36].map
        (fun w => (decode w).toOption) = [none, none, none, none, none, none] := by decide

/-- 30_encoding.md R81, one line per range, and R82: TYPE with three bytes. -/
theorem test_illformed_lines_refused :
    assembleLine (.push 256) = .error .immediateOutOfRange ∧
    assembleLine (.chk 0x100000000) = .error .immediateOutOfRange ∧
    assembleLine (.word 0x1000000000) = .error .immediateOutOfRange ∧
    expandPseudo (.typeCode [0x49#8, 0x45#8, 0x4E#8]) = .error .textNotFourBytes := by decide

/-- No two rows of the opcode map overlap (30_encoding.md R75: "The four mask/match pairs are disjoint"): two rows differ in a
bit that both masks fix. -/
theorem test_opcode_rows_disjoint :
    opcodeRows.Pairwise fun r q => r.matchBits &&& (r.maskBits &&& q.maskBits) ≠ q.matchBits &&& (r.maskBits &&& q.maskBits) := by
  decide

/-! ### Decoding: words written out from the encodings of 30_encoding.md R75 -/

/-- Format N: `0001` and thirty-two zeros. -/
theorem test_decode_start : decode 0b000100000000000000000000000000000000#36 = .ok .start := by decide
/-- Format B: `0010`, twenty-four zeros, `bbbbbbbb` = 0x74 ('t'). -/
theorem test_decode_push : decode 0b001000000000000000000000000001110100#36 = .ok (.push 0x74#8) := by decide
/-- Format N: `0011` and thirty-two zeros. -/
theorem test_decode_fin : decode 0b001100000000000000000000000000000000#36 = .ok .fin := by decide
/-- Format W: `0100` and the thirty-two bits of 0x826042AE (P1b step 12). -/
theorem test_decode_chk : decode 0b010010000010011000000100001010101110#36 = .ok (.chk 0x826042AE#32) := by decide

/-- The words of R81's table, encoded. -/
theorem test_encode_words :
    encode .start = 0x100000000#36 ∧ encode (.push 0x49#8) = 0x200000049#36 ∧ encode .fin = 0x300000000#36 ∧
    encode (.chk 0xD2BC3F73#32) = 0x4D2BC3F73#36 := by decide

/-- The rows of spec/opcode_table.json, 36 bits in five bytes, are read and run as the first command after reset. -/
theorem test_table_words :
    decodeTableWord 40 0x100000000 = some .start ∧ decodeTableWord 40 0x200000000 = some (.push 0x00#8) ∧
    decodeTableWord 40 0x300000000 = some .fin ∧ decodeTableWord 40 0x400000000 = some (.chk 0#32) ∧
    decodeTableWord 40 0x1400000000 = none := by decide

theorem test_table_words_run :
    nextOf (step (State.reset.withFetchWord 40 0x100000000)) = some State.reset ∧
    (nextOf (step (State.reset.withFetchWord 40 0x200000074))).map (·.tc) = some (tcOf 0x74#8 0#8 0#8 0#8) ∧
    (nextOf (step (State.reset.withFetchWord 40 0x300000000))).map (·.cause) = some .truncatedInput ∧
    (nextOf (step (State.reset.withFetchWord 40 0x400000001))).map (·.cause) = some .truncatedInput := by decide

/-! ### The CRC -/

/-- Rows 0x00 to 0x38 of the table of 41_crc32.md section 5. -/
def specTable0 : List Nat :=
  [
    0x00000000, 0x77073096, 0xEE0E612C, 0x990951BA, 0x076DC419, 0x706AF48F, 0xE963A535, 0x9E6495A3,
    0x0EDB8832, 0x79DCB8A4, 0xE0D5E91E, 0x97D2D988, 0x09B64C2B, 0x7EB17CBD, 0xE7B82D07, 0x90BF1D91,
    0x1DB71064, 0x6AB020F2, 0xF3B97148, 0x84BE41DE, 0x1ADAD47D, 0x6DDDE4EB, 0xF4D4B551, 0x83D385C7,
    0x136C9856, 0x646BA8C0, 0xFD62F97A, 0x8A65C9EC, 0x14015C4F, 0x63066CD9, 0xFA0F3D63, 0x8D080DF5,
    0x3B6E20C8, 0x4C69105E, 0xD56041E4, 0xA2677172, 0x3C03E4D1, 0x4B04D447, 0xD20D85FD, 0xA50AB56B,
    0x35B5A8FA, 0x42B2986C, 0xDBBBC9D6, 0xACBCF940, 0x32D86CE3, 0x45DF5C75, 0xDCD60DCF, 0xABD13D59,
    0x26D930AC, 0x51DE003A, 0xC8D75180, 0xBFD06116, 0x21B4F4B5, 0x56B3C423, 0xCFBA9599, 0xB8BDA50F,
    0x2802B89E, 0x5F058808, 0xC60CD9B2, 0xB10BE924, 0x2F6F7C87, 0x58684C11, 0xC1611DAB, 0xB6662D3D]

/-- Rows 0x40 to 0x78 of the table of 41_crc32.md section 5. -/
def specTable1 : List Nat :=
  [
    0x76DC4190, 0x01DB7106, 0x98D220BC, 0xEFD5102A, 0x71B18589, 0x06B6B51F, 0x9FBFE4A5, 0xE8B8D433,
    0x7807C9A2, 0x0F00F934, 0x9609A88E, 0xE10E9818, 0x7F6A0DBB, 0x086D3D2D, 0x91646C97, 0xE6635C01,
    0x6B6B51F4, 0x1C6C6162, 0x856530D8, 0xF262004E, 0x6C0695ED, 0x1B01A57B, 0x8208F4C1, 0xF50FC457,
    0x65B0D9C6, 0x12B7E950, 0x8BBEB8EA, 0xFCB9887C, 0x62DD1DDF, 0x15DA2D49, 0x8CD37CF3, 0xFBD44C65,
    0x4DB26158, 0x3AB551CE, 0xA3BC0074, 0xD4BB30E2, 0x4ADFA541, 0x3DD895D7, 0xA4D1C46D, 0xD3D6F4FB,
    0x4369E96A, 0x346ED9FC, 0xAD678846, 0xDA60B8D0, 0x44042D73, 0x33031DE5, 0xAA0A4C5F, 0xDD0D7CC9,
    0x5005713C, 0x270241AA, 0xBE0B1010, 0xC90C2086, 0x5768B525, 0x206F85B3, 0xB966D409, 0xCE61E49F,
    0x5EDEF90E, 0x29D9C998, 0xB0D09822, 0xC7D7A8B4, 0x59B33D17, 0x2EB40D81, 0xB7BD5C3B, 0xC0BA6CAD]

/-- Rows 0x80 to 0xB8 of the table of 41_crc32.md section 5. -/
def specTable2 : List Nat :=
  [
    0xEDB88320, 0x9ABFB3B6, 0x03B6E20C, 0x74B1D29A, 0xEAD54739, 0x9DD277AF, 0x04DB2615, 0x73DC1683,
    0xE3630B12, 0x94643B84, 0x0D6D6A3E, 0x7A6A5AA8, 0xE40ECF0B, 0x9309FF9D, 0x0A00AE27, 0x7D079EB1,
    0xF00F9344, 0x8708A3D2, 0x1E01F268, 0x6906C2FE, 0xF762575D, 0x806567CB, 0x196C3671, 0x6E6B06E7,
    0xFED41B76, 0x89D32BE0, 0x10DA7A5A, 0x67DD4ACC, 0xF9B9DF6F, 0x8EBEEFF9, 0x17B7BE43, 0x60B08ED5,
    0xD6D6A3E8, 0xA1D1937E, 0x38D8C2C4, 0x4FDFF252, 0xD1BB67F1, 0xA6BC5767, 0x3FB506DD, 0x48B2364B,
    0xD80D2BDA, 0xAF0A1B4C, 0x36034AF6, 0x41047A60, 0xDF60EFC3, 0xA867DF55, 0x316E8EEF, 0x4669BE79,
    0xCB61B38C, 0xBC66831A, 0x256FD2A0, 0x5268E236, 0xCC0C7795, 0xBB0B4703, 0x220216B9, 0x5505262F,
    0xC5BA3BBE, 0xB2BD0B28, 0x2BB45A92, 0x5CB36A04, 0xC2D7FFA7, 0xB5D0CF31, 0x2CD99E8B, 0x5BDEAE1D]

/-- Rows 0xC0 to 0xF8 of the table of 41_crc32.md section 5. -/
def specTable3 : List Nat :=
  [
    0x9B64C2B0, 0xEC63F226, 0x756AA39C, 0x026D930A, 0x9C0906A9, 0xEB0E363F, 0x72076785, 0x05005713,
    0x95BF4A82, 0xE2B87A14, 0x7BB12BAE, 0x0CB61B38, 0x92D28E9B, 0xE5D5BE0D, 0x7CDCEFB7, 0x0BDBDF21,
    0x86D3D2D4, 0xF1D4E242, 0x68DDB3F8, 0x1FDA836E, 0x81BE16CD, 0xF6B9265B, 0x6FB077E1, 0x18B74777,
    0x88085AE6, 0xFF0F6A70, 0x66063BCA, 0x11010B5C, 0x8F659EFF, 0xF862AE69, 0x616BFFD3, 0x166CCF45,
    0xA00AE278, 0xD70DD2EE, 0x4E048354, 0x3903B3C2, 0xA7672661, 0xD06016F7, 0x4969474D, 0x3E6E77DB,
    0xAED16A4A, 0xD9D65ADC, 0x40DF0B66, 0x37D83BF0, 0xA9BCAE53, 0xDEBB9EC5, 0x47B2CF7F, 0x30B5FFE9,
    0xBDBDF21C, 0xCABAC28A, 0x53B39330, 0x24B4A3A6, 0xBAD03605, 0xCDD70693, 0x54DE5729, 0x23D967BF,
    0xB3667A2E, 0xC4614AB8, 0x5D681B02, 0x2A6F2B94, 0xB40BBE37, 0xC30C8EA1, 0x5A05DF1B, 0x2D02EF8D]

/-- Every entry of the table of 41_crc32.md section 5. -/
theorem test_crc_table :
    (List.range 256).map (fun n => (crcTable (BitVec.ofNat 8 n)).toNat) =
      specTable0 ++ specTable1 ++ specTable2 ++ specTable3 := by decide +kernel

/-- 95_test_vectors.md K1. -/
theorem test_crc_bit :
    crcBit 0xFFFFFFFF#32 false = 0x92477CDF#32 ∧ crcBit 0xFFFFFFFF#32 true = 0x7FFFFFFF#32 ∧
    crcBit 0x80000000#32 true = 0xADB88320#32 ∧ crcBit 0xEDB88321#32 false = 0x9B64C2B0#32 := by decide

/-- 95_test_vectors.md K2 and K3. -/
theorem test_crc_values :
    crcByte 0x12345678#32 0x00#8 = 0x5ECCCD58#32 ∧ crcByte 0xDEADBEEF#32 0xA5#8 = 0x96D70530#32 ∧
    crc32 [0x52#8, 0x75#8, 0x53#8, 0x74#8, 0x68#8, 0x69#8] = 0xD2BC3F73#32 ∧
    crc32 [0x74#8, 0x65#8, 0x53#8, 0x74#8, 0x80#8] = 0x0E991918#32 := by decide +kernel

/-- 95_test_vectors.md P1: ser_be32 of the IEND crc; P1b: the number of its bytes in the wrong order. -/
theorem test_be32 :
    serBe32 0xAE426082#32 = [0xAE#8, 0x42#8, 0x60#8, 0x82#8] ∧ deBe32 0x82#8 0x60#8 0x42#8 0xAE#8 = 0x826042AE#32 := by
  decide

/-! ### The TypeCode decoder and STATUS -/

/-- 95_test_vectors.md T1, at the boundaries. -/
theorem test_is_letter :
    [0x40#8, 0x41#8, 0x5A#8, 0x5B#8, 0x60#8, 0x61#8, 0x7A#8, 0x7B#8, 0xC1#8, 0xFA#8].map isLetter =
      [false, true, true, false, false, true, true, false, false, false] := by decide

/-- The STATUS column of 95_test_vectors.md section 6 for the before-states, and V4. -/
theorem test_status_words :
    [State.reset, sT2, sT3, sT3x, sD0, sD2, sDM, sN, sF3, sF1].map statusView =
      [0x00000E00#32, 0x00000A40#32, 0x00000A60#32, 0x00000260#32, 0x00002F81#32, 0x00003B81#32, 0x00002F81#32,
        0x00002F82#32, 0x00003B8F#32, 0x00001287#32] := by decide

/-- The CRCVAL and TYPE columns, and the wires. -/
theorem test_views :
    rdata 0#2 sD2 = 0xD2BC3F73#32 ∧ rdata 1#2 sD2 = 0x52755374#32 ∧ rdata 2#2 sD2 = 2#32 ∧
    [sT2, sD2, sN, sF3].map faultWire = [false, false, false, true] ∧
    [sT2, sD2, sN, sF3].map doneWire = [false, false, true, false] := by decide

/-! ### Commands: rows of the table X1 of 95_test_vectors.md section 6 -/

theorem test_start_from_fault : nextOf (exec .start sF3) = some State.reset := by decide
theorem test_start_from_data : nextOf (exec .start sD2) = some State.reset := by decide

theorem test_push_type_bytes :
    nextOf (exec (.push 0x74#8) sT2) = some (mk 0x6AA6E4A5#32 0x52#8 0x75#8 0x74#8 0x00#8 3#3 0#32 .type .none) ∧
    nextOf (exec (.push 0x74#8) sT3) = some (mk 0x2B7BF6C3#32 0x52#8 0x75#8 0x53#8 0x74#8 4#3 0#32 .data .none) ∧
    nextOf (exec (.push 0x00#8) sT3) = some (mk 0x7C1343E6#32 0x52#8 0x75#8 0x53#8 0x00#8 4#3 0#32 .fault .invalidTypeCode) ∧
    nextOf (exec (.push 0x74#8) sT3x) = some sF1 := by decide +kernel

theorem test_push_payload :
    nextOf (exec (.push 0x74#8) sD2) = some (mk 0xB34B39EE#32 0x52#8 0x75#8 0x53#8 0x74#8 4#3 3#32 .data .none) ∧
    nextOf (exec (.push 0x74#8) sDM) =
      some (mk 0x12345678#32 0x49#8 0x44#8 0x41#8 0x54#8 4#3 0x80000000#32 .fault .invalidChunkLength) ∧
    nextOf (exec (.push 0x74#8) sN) = some (mk 0x51BD9F7D#32 0x49#8 0x45#8 0x4E#8 0x44#8 4#3 0#32 .fault .illegalSequence) ∧
    nextOf (exec (.push 0x74#8) sF3) = some sF3 := by decide +kernel

/-- 95_test_vectors.md P6b steps 7 and 8: the same operation with the bound LEN_MAX = 2. -/
theorem test_length_bound_parameter :
    nextOf (absorbPayload 2#32 0x02#8 (mk 0x6BD95551#32 0x74#8 0x65#8 0x53#8 0x74#8 4#3 1#32 .data .none)) =
      some (mk 0xF209D91B#32 0x74#8 0x65#8 0x53#8 0x74#8 4#3 2#32 .data .none) ∧
    nextOf (absorbPayload 2#32 0x03#8 (mk 0xF209D91B#32 0x74#8 0x65#8 0x53#8 0x74#8 4#3 2#32 .data .none)) =
      some (mk 0xF209D91B#32 0x74#8 0x65#8 0x53#8 0x74#8 4#3 2#32 .fault .invalidChunkLength) := by decide +kernel

theorem test_fin :
    nextOf (exec .fin sT2) = some sF4 ∧ nextOf (exec .fin sD0) = some sN ∧
    nextOf (exec .fin sN) = some (mk 0x51BD9F7D#32 0x49#8 0x45#8 0x4E#8 0x44#8 4#3 0#32 .fault .illegalSequence) := by decide

theorem test_chk :
    nextOf (exec (.chk 0xE93BA89A#32) sT2) = some sF4 ∧ nextOf (exec (.chk 0xAE426082#32) sD0) = some sN ∧
    nextOf (exec (.chk 0xD2BC3F72#32) sD2) = some sF3 ∧
    nextOf (exec (.chk 0xAE426082#32) sN) =
      some (mk 0x51BD9F7D#32 0x49#8 0x45#8 0x4E#8 0x44#8 4#3 0#32 .fault .illegalSequence) := by decide

/-- Rows `.word` of X1: an illegal word in TYPE, DATA, DONE, and in FAULT. -/
theorem test_illegal_word :
    (nextOf (acceptWord 0x200000174#36 sT3)).map (·.cause) = some .illegalCommand ∧
    (nextOf (acceptWord 0x000000000#36 sD2)).map statusView = some 0x00003B97#32 ∧
    (nextOf (acceptWord 0x200000174#36 sN)).map statusView = some 0x00002F97#32 ∧
    nextOf (acceptWord 0x000000000#36 sF3) = some sF3 := by decide

/-- 95_test_vectors.md P10 step 11: an edge with rst = 1 in phase DATA gives the reset registers, and the PUSH presented with it
is lost; P10 step 2: an idle edge, whatever is on `cmd`. -/
theorem test_reset_and_idle_edges :
    nextOf (step { sD2 with pending := [{ rst := true, cmdValid := true, cmd := 0x200000043#36 }] }) = some State.reset ∧
    nextOf (step { sD2 with pending := [{ rst := false, cmdValid := false, cmd := 0x200000043#36 }] }) = some sD2 := by decide

/-! ### States that meet the invariants, one for each phase and cause -/

theorem test_inv_sT2 : BlockInv sT2 := by
  refine ⟨by decide, by decide, by decide, by decide, by decide, ?_, ⟨[], by decide +kernel, by decide⟩, by decide, by decide,
    by decide, by decide, by decide⟩
  intro i hi; interval_cases i <;> decide

theorem test_inv_sT3x : BlockInv sT3x := by
  refine ⟨by decide, by decide, by decide, by decide, by decide, ?_, ⟨[], by decide +kernel, by decide⟩, by decide, by decide,
    by decide, by decide, by decide⟩
  intro i hi; interval_cases i <;> decide

theorem test_inv_sD2 : BlockInv sD2 := by
  refine ⟨by decide, by decide, by decide, by decide, by decide, ?_, ⟨[0x68#8, 0x69#8], by decide +kernel, by decide⟩,
    by decide, by decide, by decide, by decide, by decide⟩
  intro i hi; interval_cases i <;> decide

theorem test_inv_sN : BlockInv sN := by
  refine ⟨by decide, by decide, by decide, by decide, by decide, ?_, ⟨[], by decide +kernel, by decide⟩, by decide, by decide,
    by decide, by decide, by decide⟩
  intro i hi; interval_cases i <;> decide

theorem test_inv_sF1 : BlockInv sF1 := by
  refine ⟨by decide, by decide, by decide, by decide, by decide, ?_, ⟨[], by decide +kernel, by decide⟩, by decide, by decide,
    by decide, by decide, by decide⟩
  intro i hi; interval_cases i <;> decide

theorem test_inv_sF3 : BlockInv sF3 := by
  refine ⟨by decide, by decide, by decide, by decide, by decide, ?_, ⟨[0x68#8, 0x69#8], by decide +kernel, by decide⟩,
    by decide, by decide, by decide, by decide, by decide⟩
  intro i hi; interval_cases i <;> decide

theorem test_inv_sF4 : BlockInv sF4 := by
  refine ⟨by decide, by decide, by decide, by decide, by decide, ?_, ⟨[], by decide +kernel, by decide⟩, by decide, by decide,
    by decide, by decide, by decide⟩
  intro i hi; interval_cases i <;> decide

/-- After the payload bytes `P`, as many as the bound allows: phase DATA (no cause) or FAULT (InvalidChunkLength). -/
def atBound (P : List Byte) (phase : Phase) (cause : Cause) : State :=
  { sDM with
    crc := crcBytes 0xFFFFFFFF#32 ([0x49#8, 0x44#8, 0x41#8, 0x54#8] ++ P)
    phase := phase
    cause := cause }

/-- The two ends of a computation that absorbed `P`, at the bound. -/
theorem test_atBound_inv (P : List Byte) (hP : P.length = 2147483648) :
    BlockInv (atBound P .data .none) ∧ BlockInv (atBound P .fault .invalidChunkLength) := by
  have hc (phase : Phase) (cause : Cause) : CrcCovers (atBound P phase cause) P := ⟨rfl, hP.symm⟩
  have h6 : ∀ i : Nat, i < 4 → (4#3).toNat ≤ i → tcGet (tcOf 0x49#8 0x44#8 0x41#8 0x54#8) i = 0x00#8 := by
    intro i hi h; exact absurd h (by simp; omega)
  have h1 (phase : Phase) (cause : Cause) : (atBound P phase cause).tcn ≤ 4#3 ∧ (atBound P phase cause).len ≤ Config.lenMax := by
    show 4#3 ≤ 4#3 ∧ 0x80000000#32 ≤ 0x80000000#32
    decide
  have hT (phase : Phase) (cause : Cause) : TypeCodeComplete (atBound P phase cause) := by
    show 4#3 = 4#3 ∧ tcLetters (tcOf 0x49#8 0x44#8 0x41#8 0x54#8) = true
    decide
  constructor
  · exact ⟨h1 _ _, nofun, fun _ => ⟨hT _ _, (h1 _ _).2, rfl⟩, nofun, ⟨nofun, fun _ => nofun⟩, h6, ⟨P, hc _ _⟩, fun _ => rfl,
      nofun, nofun, nofun, fun _ => hT _ _⟩
  · exact ⟨h1 _ _, nofun, nofun, nofun, ⟨fun _ => (by decide :
        1#3 ≤ causeCode .invalidChunkLength ∧ causeCode .invalidChunkLength ≤ 6#3), nofun⟩, h6, ⟨P, hc _ _⟩, fun _ => rfl, nofun, nofun,
      fun _ => ⟨rfl, rfl⟩, fun _ => hT _ _⟩

/-- There is a payload of every length. -/
theorem test_payload_of_length (n : Nat) : ∃ P : List Byte, P.length = n :=
  ⟨List.replicate n 0x00#8, List.length_replicate⟩

/-- A state of each kind at the bound. -/
theorem test_inv_atBound :
    ∃ P : List Byte, BlockInv (atBound P .data .none) ∧ BlockInv (atBound P .fault .invalidChunkLength) :=
  (test_payload_of_length 2147483648).elim fun P hP => ⟨P, test_atBound_inv P hP⟩

/-! ### Witnesses: for each statement with hypotheses, concrete values that meet them, at the boundary of each clause -/

theorem test_witness_DecodeEncodeAgree :
    wellFormed (.push 0xFF#8) = true ∧ wellFormed (.chk 0xFFFFFFFF#32) = true ∧
    decode 0x4FFFFFFFF#36 = .ok (.chk 0xFFFFFFFF#32) := by decide

theorem test_witness_OpcodeMapSelects :
    decode 0x2000000FF#36 = .ok (.push 0xFF#8) ∧ decode 0x4FFFFFFFF#36 = .ok (.chk 0xFFFFFFFF#32) := by decide

theorem test_witness_DecoderReadsFields :
    (opNat 0x100000000#36 = 1 ∧ argNat 0x100000000#36 = 0) ∧
    (opNat 0x2000000FF#36 = 2 ∧ argNat 0x2000000FF#36 / 2 ^ 8 = 0) ∧
    (opNat 0x300000000#36 = 3 ∧ argNat 0x300000000#36 = 0) ∧ opNat 0x4FFFFFFFF#36 = 4 ∧
    opNat 0x500000000#36 = 5 ∧ (opNat 0x200000100#36 = 2 ∧ argNat 0x200000100#36 / 2 ^ 8 = 1) := by decide

theorem test_witness_CrcLinear : [0x01#8, 0x80#8].length = [0xFF#8, 0x00#8].length := by decide

theorem test_witness_SingleBitFlipDetected :
    (7 < 8) ∧ (0x74#8 ^^^ (1#8 <<< 7) = 0xF4#8) ∧
    crc32 ([0x52#8, 0x75#8, 0x53#8] ++ 0xF4#8 :: [0x68#8, 0x69#8]) = 0x338924F3#32 := by decide +kernel

theorem test_witness_CrcFieldBytes :
    sD2.phase = .data ∧ serBe32 (crcVal sD2) = [0xD2#8, 0xBC#8, 0x3F#8, 0x73#8] := by decide

theorem test_witness_LetterTest :
    (0x30#8 ≤ 0x39#8 ∧ 0x39#8 ≤ 0x39#8) ∧ 0x80#8 ≤ 0x80#8 ∧ (0x60#8 ∈ [0x40#8, 0x5B#8, 0x60#8, 0x7B#8, 0x00#8]) := by decide

theorem test_witness_TcLettersRule : BlockInv sT3x ∧ sT3x.tcn < 4#3 := ⟨test_inv_sT3x, by decide⟩

theorem test_witness_TcOkByPhase :
    (BlockInv sD2 ∧ sD2.phase = .data) ∧ (BlockInv sN ∧ sN.phase = .done) ∧ (BlockInv sT3x ∧ sT3x.phase = .type) ∧
    (BlockInv sF1 ∧ sF1.phase = .fault ∧ sF1.cause = .invalidTypeCode) ∧
    (BlockInv sF4 ∧ sF4.phase = .fault ∧ sF4.cause = .truncatedInput) ∧
    (BlockInv sF3 ∧ sF3.phase = .fault ∧ sF3.cause = .invalidCrc) ∧
    ∃ s : State, BlockInv s ∧ s.phase = .fault ∧ s.cause = .invalidChunkLength :=
  ⟨⟨test_inv_sD2, rfl⟩, ⟨test_inv_sN, rfl⟩, ⟨test_inv_sT3x, rfl⟩, ⟨test_inv_sF1, rfl, rfl⟩, ⟨test_inv_sF4, rfl, rfl⟩,
    ⟨test_inv_sF3, rfl, rfl⟩, test_inv_atBound.elim fun _ h => ⟨_, h.2, rfl, rfl⟩⟩

theorem test_witness_CaseReading : isLetter 0x5A#8 = true ∧ isLetter 0x61#8 = true := by decide

theorem test_witness_PhaseAndCauseCodes : BlockInv sF3 ∧ BlockInv sD2 := ⟨test_inv_sF3, test_inv_sD2⟩

theorem test_witness_StatusFields : sD2.tc = sF3.tc ∧ sD2.tcn = sF3.tcn := by decide

/-- A state for each clause: DATA and DONE with their payloads, TYPE at both ends of its range, DATA just below the bound, and
words that append nothing, among them PUSH at the bound, in DONE and in FAULT. -/
theorem test_witness_CrcvalIsChecksumOfAbsorbed :
    (CrcCovers sD2 [0x68#8, 0x69#8] ∧ sD2.phase = .data ∧ sD2.len < 0x80000000#32) ∧
    (BlockInv sN ∧ sN.phase = .done ∧ CrcCovers sN []) ∧
    (State.reset.phase = .type ∧ State.reset.tcn ≤ 3#3 ∧ CrcCovers State.reset []) ∧
    (sT3x.phase = .type ∧ sT3x.tcn = 3#3 ∧ CrcCovers sT3x []) ∧
    (∃ (s : State) (p : PortSample), s.pending = p :: [] ∧ p.rst = true) ∧
    (∃ (s : State) (P : List Byte), s.phase = .data ∧ s.len = 0x7FFFFFFF#32 ∧ CrcCovers s P) ∧
    (∃ (s t : State) (P : List Byte), s.phase = .data ∧ s.len = 0x80000000#32 ∧ CrcCovers s P ∧
      acceptWord 0x200000000#36 s = .next t) ∧
    (∃ t, acceptWord 0x200000000#36 sN = .next t) ∧ (∃ t, acceptWord 0x200000000#36 sF3 = .next t) ∧
    NotStart 0x200000000#36 := by
  refine ⟨⟨⟨by decide +kernel, by decide⟩, by decide, by decide⟩, ⟨test_inv_sN, rfl, by decide +kernel, by decide⟩,
    ⟨rfl, by decide, by decide, by decide⟩, ⟨rfl, rfl, by decide +kernel, by decide⟩,
    ⟨{ sD2 with pending := [resetSample] }, resetSample, rfl, rfl⟩, ?_, ?_, ⟨_, rfl⟩, ⟨_, rfl⟩, by unfold NotStart; decide⟩
  · obtain ⟨P, hP⟩ := test_payload_of_length 2147483647
    exact ⟨{ atBound P .data .none with len := 0x7FFFFFFF#32 }, P, rfl, rfl, rfl, hP.symm⟩
  · obtain ⟨P, hP⟩ := test_payload_of_length 2147483648
    exact ⟨atBound P .data .none, _, P, rfl, rfl, ⟨rfl, hP.symm⟩, rfl⟩

theorem test_witness_ViewsDetermineRegisters :
    ∀ rsel : BitVec 2, rdata rsel sD2 = rdata rsel { sD2 with pending := [idleSample] } := by decide

theorem test_witness_StartInitialises :
    SameRegisters { State.reset with pending := [idleSample] } State.reset ∧
    (exec .start sF3 = .next State.reset ∧ sF3.phase = .fault ∧ State.reset.phase ≠ .fault) ∧
    (exec .start sN = .next State.reset ∧ sN.phase = .done ∧ State.reset.phase ≠ .done) :=
  ⟨rfl, ⟨rfl, rfl, by decide⟩, ⟨rfl, rfl, by decide⟩⟩

theorem test_witness_PushCapturesTypeByte :
    (State.reset.phase = .type ∧ State.reset.tcn = 0#3) ∧ (∃ s : State, s.phase = .type ∧ s.tcn = 1#3) ∧
    (BlockInv sT2 ∧ sT2.phase = .type ∧ sT2.tcn = 2#3 ∧ sT2.tcn ≤ 2#3 ∧ ∃ t, exec (.push 0x31#8) sT2 = .next t) :=
  ⟨⟨rfl, rfl⟩, ⟨{ sT2 with tcn := 1#3 }, rfl, rfl⟩, test_inv_sT2, rfl, rfl, by decide, _, rfl⟩

theorem test_witness_PushCompletesTypeCode :
    (sT3.phase = .type ∧ sT3.tcn = 3#3 ∧ sT3.cause = .none ∧ sT3.tc.b0 = 0x52#8 ∧ sT3.tc.b1 = 0x75#8 ∧
      sT3.tc.b2 = 0x53#8 ∧ sT3.crc = 0xCFAC51CE#32 ∧ tcLetters (tcOf sT3.tc.b0 sT3.tc.b1 sT3.tc.b2 0x74#8) = true) ∧
    (sT3x.phase = .type ∧ sT3x.tcn = 3#3 ∧ sT3x.cause = .none ∧ sT3x.tc.b0 = 0x52#8 ∧ sT3x.tc.b1 = 0x75#8 ∧
      sT3x.tc.b2 = 0x31#8 ∧ sT3x.crc = 0x6C1051BA#32 ∧ tcLetters (tcOf sT3x.tc.b0 sT3x.tc.b1 sT3x.tc.b2 0x74#8) = false) ∧
    (tcLetters (tcOf 0x52#8 0x75#8 0x53#8 0x00#8) = false ∧ tcLetters (tcOf 0x52#8 0x75#8 0x73#8 0x74#8) = true) ∧
    (sD2.tcn = 4#3 ∧ nextOf (exec .fin sD2) = some { sD2 with phase := .done }) := by decide

/-- The third example of the statement: a reserved-bit-invalid type code, whatever the CRC. -/
theorem test_witness_PushCompletesTypeCode_reserved :
    ∃ s : State, s.phase = .type ∧ s.tcn = 3#3 ∧ s.cause = .none ∧ s.tc.b0 = 0x52#8 ∧ s.tc.b1 = 0x75#8 ∧ s.tc.b2 = 0x73#8 :=
  ⟨mk 0#32 0x52#8 0x75#8 0x73#8 0x00#8 3#3 0#32 .type .none, rfl, rfl, rfl, rfl, rfl, rfl⟩

theorem test_witness_PushAbsorbsPayload :
    (∃ s : State, s.phase = .data ∧ s.len = 0x7FFFFFFF#32 ∧ s.len < 0x80000000#32) ∧
    ∃ s : State, s.phase = .data ∧ s.tc = tcOf 0x52#8 0x75#8 0x53#8 0x74#8 ∧ s.crc = 0x2B7BF6C3#32 ∧ s.len = 0#32 :=
  ⟨⟨{ sDM with len := 0x7FFFFFFF#32 }, rfl, rfl, by decide⟩, ⟨{ sD2 with crc := 0x2B7BF6C3#32, len := 0#32 }, rfl, rfl, rfl, rfl⟩⟩

theorem test_witness_PushRefusesPastBound :
    (sDM.phase = .data ∧ sDM.len = 0x80000000#32) ∧ ∃ s : State, s.phase = .data ∧ s.len = 0x7FFFFFFF#32 :=
  ⟨⟨rfl, rfl⟩, { sDM with len := 0x7FFFFFFF#32 }, rfl, rfl⟩

theorem test_witness_PushAfterEnd : sN.phase = .done := rfl

theorem test_witness_FinByPhase :
    sT2.phase = .type ∧ sD2.phase = .data ∧ sN.phase = .done ∧ sF3.phase = .fault ∧
    (sD0.phase = .data ∧ sD0.tc = tcOf 0x49#8 0x45#8 0x4E#8 0x44#8 ∧ sD0.crc = 0x51BD9F7D#32 ∧ sD0.len = 0#32) := by decide

theorem test_witness_ChkByPhase :
    sT2.phase = .type ∧ (sD2.phase = .data ∧ sD2.crc ^^^ 0xFFFFFFFF#32 = 0xD2BC3F73#32) ∧
    (sD2.crc ^^^ 0xFFFFFFFF#32 ≠ 0xD2BC3F72#32) ∧ sN.phase = .done ∧ sF3.phase = .fault ∧ sD2.crc = 0x2D43C08C#32 := by decide

theorem test_witness_IllegalWordRaises :
    (∃ e, decode 0x200000100#36 = .error e) ∧ sT2.phase = .type ∧ sD2.phase = .data ∧ sN.phase = .done ∧ sF3.phase = .fault :=
  ⟨⟨.pushReservedBits, by decide⟩, rfl, rfl, rfl, rfl⟩

theorem test_witness_PushStopsOnlyOutsideInvariants :
    (∃ s : State, s.phase = .type ∧ s.tcn = 4#3 ∧ 3#3 < s.tcn) ∧
    (∃ s : State, s.phase = .data ∧ s.len = 0x80000001#32 ∧ 0x80000000#32 < s.len) ∧
    ¬(sT3.phase = .type ∧ 3#3 < sT3.tcn ∨ sT3.phase = .data ∧ 0x80000000#32 < sT3.len) ∧
    ¬(sDM.phase = .type ∧ 3#3 < sDM.tcn ∨ sDM.phase = .data ∧ 0x80000000#32 < sDM.len) :=
  ⟨⟨{ sT3 with tcn := 4#3 }, rfl, rfl, by decide⟩, ⟨{ sDM with len := 0x80000001#32 }, rfl, rfl, by decide⟩, by decide, by decide⟩

theorem test_witness_FaultEntryWrites :
    (sD2.phase ≠ .fault ∧ nextOf (acceptWord 0x4D2BC3F72#36 sD2) = some sF3 ∧ sF3.phase = .fault) ∧
    (sT3x.phase ≠ .fault ∧ nextOf (acceptWord 0x200000074#36 sT3x) = some sF1 ∧ sF1.phase = .fault) ∧
    NotStart 0x4D2BC3F73#36 := by
  refine ⟨?_, ?_, ?_⟩
  · decide +kernel
  · decide +kernel
  · unfold NotStart; decide

/-- One accepted word for each cause. -/
theorem test_witness_CausesRaisedExactlyWhen :
    (nextOf (acceptWord 0x200000074#36 sT3x)).map (·.cause) = some .invalidTypeCode ∧
    (nextOf (acceptWord 0x200000000#36 sDM)).map (·.cause) = some .invalidChunkLength ∧
    (nextOf (acceptWord 0x4D2BC3F72#36 sD2)).map (·.cause) = some .invalidCrc ∧
    (nextOf (acceptWord 0x300000000#36 sT2)).map (·.cause) = some .truncatedInput ∧
    (nextOf (acceptWord 0x100000001#36 sN)).map (·.cause) = some .illegalCommand ∧
    (nextOf (acceptWord 0x4AE426082#36 sN)).map (·.cause) = some .illegalSequence := by decide

theorem test_witness_FaultIgnoresAllButStart :
    sF3.phase = .fault ∧ NotStart 0x100000001#36 ∧ NotStart 0x200000021#36 ∧
    ∃ (s : State) (p : PortSample), s.phase = .fault ∧ s.pending = p :: [] ∧ p.rst = false ∧ p.cmdValid = true ∧
      p.cmd = 0x200000021#36 :=
  ⟨rfl, by unfold NotStart; decide, by unfold NotStart; decide,
    { sF3 with pending := [commandSample 0x200000021#36] }, _, rfl, rfl, rfl, rfl, rfl⟩

theorem test_witness_FaultLeftOnlyByStartOrReset :
    nextOf (step { sF3 with pending := [commandSample 0x100000000#36] }) = some State.reset ∧
    nextOf (step { sF3 with pending := [resetSample] }) = some State.reset ∧ State.reset.phase ≠ .fault ∧
    nextOf (step { sF3 with pending := [commandSample 0x300000000#36] }) = some sF3 := by decide

theorem test_witness_PhaseTransitionTable :
    (∃ s, BlockInv s ∧ s.phase = .data ∧ s.len = 0x80000000#32) ∧ BlockInv sT3x ∧ BlockInv sN ∧ BlockInv sF3 :=
  ⟨test_inv_atBound.elim fun _ h => ⟨_, h.1, rfl, rfl⟩, test_inv_sT3x, test_inv_sN, test_inv_sF3⟩

theorem test_witness_RegistersWrittenOnlyByTheirCommands :
    nextOf (exec .fin sD0) = some sN ∧ nextOf (exec (.chk 0xAE426082#32) sD0) = some sN ∧
    nextOf (exec (.push 0x21#8) sF3) = some sF3 ∧ (nextOf (exec (.push 0x00#8) sN)).map (·.crc) = some sN.crc ∧
    sT2.phase ≠ .data ∧ sD0.phase ≠ .type ∧ (nextOf (exec .fin sT2)).map (·.cause) = some .truncatedInput := by decide

theorem test_witness_TypeCodeImmutable :
    sD2.tcn = 4#3 ∧ nextOf (step { sD2 with pending := [commandSample 0x4D2BC3F72#36] }) = some sF3 ∧
    nextOf (step { sD2 with pending := [commandSample 0x100000000#36] }) = some State.reset ∧
    nextOf (step { sD2 with pending := [resetSample] }) = some State.reset := by decide

theorem test_witness_ControlIndependentOfCrc :
    nextOf (exec .fin sD0) = some sN ∧ (∀ e : Word32, Instr.fin ≠ .chk e) ∧
    (sD2.phase = .data ∧ (nextOf (exec (.push 0x00#8) sD2)).map (·.len) = some 3#32) := by
  refine ⟨by decide, by simp, by decide⟩

theorem test_witness_StepDispatch :
    State.reset.pending = [] ∧ resetSample.rst = true ∧ (idleSample.rst = false ∧ idleSample.cmdValid = false) ∧
    ((commandSample 0x300000000#36).rst = false ∧ (commandSample 0x300000000#36).cmdValid = true ∧
      decode (commandSample 0x300000000#36).cmd = .ok .fin ∧ Instr.fin ≠ .start) ∧
    decode (commandSample 0x500000000#36).cmd = .error .reservedOpcode ∧ sD2.phase ≠ .fault ∧ sF3.phase = .fault := by decide

theorem test_witness_ResetHasPriority :
    ∃ s : State, s.pending = { rst := true, cmdValid := true, cmd := 0x200000043#36 } :: [] :=
  ⟨{ sD2 with pending := [{ rst := true, cmdValid := true, cmd := 0x200000043#36 }] }, rfl⟩

theorem test_witness_IdleChangesNothing :
    ∃ s : State, s.pending = ([0x200000043#36, 0x100000000#36].map fun w => { rst := false, cmdValid := false, cmd := w }) ++ [] :=
  ⟨{ sD2 with pending := _ }, rfl⟩

theorem test_witness_StepKeepsInv :
    BlockInv sD2 ∧ nextOf (step { sD2 with pending := [commandSample 0x4D2BC3F72#36] }) = some sF3 ∧
    (BlockInv sT3x ∧ ∃ t, step sT3x = .next t) := ⟨test_inv_sD2, by decide, test_inv_sT3x, _, rfl⟩

theorem test_witness_EveryStepAnswers : BlockInv sT2 ∧ ∃ s, BlockInv s ∧ s.phase = .data ∧ s.len = 0x80000000#32 :=
  ⟨test_inv_sT2, test_inv_atBound.elim fun _ h => ⟨_, h.1, rfl, rfl⟩⟩

/-- A type code for each row of the statement, a payload at the bound and one past it. -/
theorem test_witness_SequenceEndStates :
    tcLetters (tcOf 0x52#8 0x75#8 0x31#8 0x74#8) = false ∧ tcLetters (tcOf 0x52#8 0x75#8 0x53#8 0x74#8) = true ∧
    (∃ P : List Byte, P.length = 2147483649) ∧ (∃ P : List Byte, P.length = 2147483648) ∧
    (0xD2BC3F72#32 ≠ crc32 (typeBytes (tcOf 0x52#8 0x75#8 0x53#8 0x74#8) ++ [0x68#8, 0x69#8])) :=
  ⟨by decide, by decide, test_payload_of_length _, test_payload_of_length _, by decide +kernel⟩

/-- 95_test_vectors.md P2 run whole: the sequence of the statement on "RuSt", "hi". -/
theorem test_witness_GenerateThenVerify :
    tcLetters (tcOf 0x52#8 0x75#8 0x53#8 0x74#8) = true ∧ [0x68#8, 0x69#8].length ≤ 2 ^ 31 ∧
    nextOf (runSequence (tcOf 0x52#8 0x75#8 0x53#8 0x74#8) [0x68#8, 0x69#8] .fin sF1 []) =
      some (mk 0x2D43C08C#32 0x52#8 0x75#8 0x53#8 0x74#8 4#3 2#32 .done .none) := by
  refine ⟨by decide, by simp, by decide +kernel⟩

/-- 95_test_vectors.md P12: data byte 0, bit 0; type byte 3, bit 3. -/
theorem test_witness_FlippedBitRejected :
    (typeBytes (tcOf 0x52#8 0x75#8 0x53#8 0x74#8) ++ [0x69#8, 0x69#8] =
      [0x52#8, 0x75#8, 0x53#8, 0x74#8] ++ (0x68#8 ^^^ (1#8 <<< 0)) :: [0x69#8]) ∧
    (typeBytes (tcOf 0x52#8 0x75#8 0x53#8 0x7C#8) ++ [0x68#8, 0x69#8] =
      [0x52#8, 0x75#8, 0x53#8] ++ (0x74#8 ^^^ (1#8 <<< 3)) :: [0x68#8, 0x69#8]) ∧
    (typeBytes (tcOf 0x52#8 0x75#8 0x53#8 0x74#8) ++ [0x68#8, 0x69#8] =
      [0x52#8, 0x75#8, 0x53#8, 0x74#8] ++ 0x68#8 :: [0x69#8]) ∧
    tcLetters (tcOf 0x52#8 0x75#8 0x53#8 0x7C#8) = false := by decide

theorem test_witness_AssembledLinesEncode :
    (255 ≤ 255) ∧ (255 < 256) ∧ (0xFFFFFFFF < 0x100000000) ∧
    assembleLine (.push 255) = .ok (commandSample 0x2000000FF#36) ∧
    assembleLine (.chk 0xFFFFFFFF) = .ok (commandSample 0x4FFFFFFFF#36) ∧
    assembleLine (.word 0xFFFFFFFFF) = .ok (commandSample 0xFFFFFFFFF#36) := by decide

theorem test_witness_PseudoExpansions : [0x49#8, 0x45#8, 0x4E#8, 0x44#8, 0x21#8].length ≠ 4 := by decide

/-- A next state and a refusal, each with input still to come; and two states that differ in their input. -/
theorem test_witness_RegistersAndInputDecide :
    (∃ S, step { sD2 with pending := [commandSample 0x4D2BC3F72#36, idleSample] } =
      .next { toRegisters := S, pending := [idleSample] }) ∧
    (∃ r, step { sDM with len := 0x80000001#32, pending := [commandSample 0x200000000#36, idleSample] } = .refused r) ∧
    SameRegisters sD2 { sD2 with pending := [idleSample] } := ⟨⟨sF3.toRegisters, rfl⟩, ⟨.outsideInvariants, rfl⟩, rfl⟩

/-- 42_commands.md R130 on the six registers: CHK with an unequal operand (95_test_vectors.md P3), reset, and Idle. -/
theorem test_block_step :
    blockStep sD2.toRegisters (.cmd 0x4D2BC3F72#36) = .next sF3.toRegisters ∧
    blockStep sD2.toRegisters .reset = .next State.reset.toRegisters ∧
    blockStep sD2.toRegisters .idle = .next sD2.toRegisters := ⟨rfl, rfl, rfl⟩

end Sys2Proof.Tests
end

section
/-! PROOFS. The views, the read port and the reset state (10_state.md R30 to R36; O23, O24, O27). -/

namespace Sys2Proof.Machine

@[simp] theorem rdata_zero (s : State) : rdata 0#2 s = crcVal s := rfl
@[simp] theorem rdata_one (s : State) : rdata 1#2 s = typeView s := rfl
@[simp] theorem rdata_two (s : State) : rdata 2#2 s = lenView s := rfl
@[simp] theorem rdata_three (s : State) : rdata 3#2 s = statusView s := rfl

theorem crcVal_eq_xor (s : State) : crcVal s = s.crc ^^^ 0xFFFFFFFF#32 := rfl

@[simp] theorem faultWire_iff (s : State) : faultWire s = true ↔ s.phase = .fault := decide_eq_true_iff

@[simp] theorem doneWire_iff (s : State) : doneWire s = true ↔ s.phase = .done := decide_eq_true_iff

@[simp] theorem statusView_extract_phase (s : State) : (statusView s).extractLsb' 0 2 = phaseCode s.phase := by
  ext j hj
  simp [statusView_getLsbD, hj]

@[simp] theorem statusView_extract_cause (s : State) : (statusView s).extractLsb' 2 3 = causeCode s.cause := by
  ext j hj
  simp [statusView_getLsbD, show ¬2 + j < 2 by omega, show 2 + j < 5 by omega, hj]

@[simp] theorem statusView_extract_tcn (s : State) : (statusView s).extractLsb' 5 3 = s.tcn := by
  ext j hj
  simp [statusView_getLsbD, hj, show ¬5 + j < 2 by omega, show ¬5 + j < 5 by omega, show 5 + j < 8 by omega]

@[simp] theorem statusView_extract_reserved (s : State) : (statusView s).extractLsb' 14 18 = 0#18 := by
  ext j hj
  simp [statusView_getLsbD, show ¬14 + j < 2 by omega, show ¬14 + j < 5 by omega, show ¬14 + j < 8 by omega,
    show ∀ k, k < 14 → 14 + j ≠ k by omega]

/-- From bit 8 up STATUS is a function of TC and TCN (10_state.md R34). -/
theorem statusView_getLsbD_congr {s t : State} (htc : s.tc = t.tc) (htcn : s.tcn = t.tcn) {j : Nat} (hj : 8 ≤ j) :
    (statusView s).getLsbD j = (statusView t).getLsbD j := by
  have hok : tcOk s = tcOk t := by rw [tcOk, tcOk, htc, htcn]
  simp only [statusView_getLsbD, htc, hok, show ¬j < 2 by omega, show ¬j < 5 by omega, show ¬j < 8 by omega, if_false]

theorem statusView_extract_flags_congr {s t : State} (htc : s.tc = t.tc) (htcn : s.tcn = t.tcn) :
    (statusView s).extractLsb' 8 6 = (statusView t).extractLsb' 8 6 := by
  ext j hj
  simp only [BitVec.getElem_extractLsb']
  exact statusView_getLsbD_congr htc htcn (Nat.le_add_right 8 j)

@[simp] theorem typeView_extract_b0 (s : State) : (typeView s).extractLsb' 24 8 = s.tc.b0 := by
  ext j hj
  simp [typeView_eq_deBe32, deBe32_getLsbD, show ¬24 + j < 8 by omega, show ¬24 + j - 8 < 8 by omega,
    show ¬24 + j - 8 - 8 < 8 by omega, show 24 + j - 8 - 8 - 8 = j by omega, BitVec.getLsbD_eq_getElem hj]

@[simp] theorem typeView_extract_b1 (s : State) : (typeView s).extractLsb' 16 8 = s.tc.b1 := by
  ext j hj
  simp [typeView_eq_deBe32, deBe32_getLsbD, show ¬16 + j < 8 by omega, show ¬16 + j - 8 < 8 by omega,
    show 16 + j - 8 - 8 = j by omega, hj]

@[simp] theorem typeView_extract_b2 (s : State) : (typeView s).extractLsb' 8 8 = s.tc.b2 := by
  ext j hj
  simp [typeView_eq_deBe32, deBe32_getLsbD, hj]

@[simp] theorem typeView_extract_b3 (s : State) : (typeView s).extractLsb' 0 8 = s.tc.b3 := by
  ext j hj
  simp [typeView_eq_deBe32, deBe32_getLsbD, hj]

/-- TYPE packs the four bytes without loss (10_state.md R32). -/
theorem typeView_inj {s t : State} : typeView s = typeView t ↔ s.tc = t.tc := by
  constructor
  · intro h
    have h0 : s.tc.b0 = t.tc.b0 := by rw [← typeView_extract_b0, h, typeView_extract_b0]
    have h1 : s.tc.b1 = t.tc.b1 := by rw [← typeView_extract_b1, h, typeView_extract_b1]
    have h2 : s.tc.b2 = t.tc.b2 := by rw [← typeView_extract_b2, h, typeView_extract_b2]
    have h3 : s.tc.b3 = t.tc.b3 := by rw [← typeView_extract_b3, h, typeView_extract_b3]
    calc s.tc = ⟨s.tc.b0, s.tc.b1, s.tc.b2, s.tc.b3⟩ := rfl
      _ = ⟨t.tc.b0, t.tc.b1, t.tc.b2, t.tc.b3⟩ := by rw [h0, h1, h2, h3]
  · intro h
    rw [typeView, typeView, h]

/-- STATUS after reset: the three inverted flag bits of zero bytes (10_state.md R34, R36). -/
theorem statusView_reset : statusView State.reset = 0x00000E00#32 := by decide

/-- Settles O23, from the bits of STATUS (`statusView_getLsbD`). -/
theorem statusFields : Obligations.StatusFields := by
  unfold Obligations.StatusFields
  exact ⟨fun s => ⟨statusView_extract_phase s, statusView_extract_cause s, statusView_extract_tcn s,
    statusView_getLsbD s 8, statusView_getLsbD s 9, statusView_getLsbD s 10, statusView_getLsbD s 11,
    statusView_getLsbD s 12, statusView_getLsbD s 13, statusView_extract_reserved s⟩,
    fun _ _ => statusView_extract_flags_congr, statusView_reset⟩

/-- Settles O24, from the select map and the byte fields of TYPE. -/
theorem readPort : Obligations.ReadPort := by
  unfold Obligations.ReadPort
  exact ⟨fun s => ⟨crcVal_eq_xor s, rdata_one s, rdata_two s, rdata_three s, typeView_extract_b0 s, typeView_extract_b1 s,
    typeView_extract_b2 s, typeView_extract_b3 s, faultWire_iff s, doneWire_iff s⟩, fun _ _ => typeView_inj⟩

/-- Settles O27: the reset state evaluated, and START's registers by `startComputation_toRegisters`. -/
theorem resetState : Obligations.ResetState := by
  unfold Obligations.ResetState
  exact ⟨rfl, rfl, rfl, rfl, rfl, rfl, rfl, rfl, rfl, statusView_reset, rfl, rfl,
    fun s => ⟨startComputation s, execStart_eq s, startComputation_toRegisters s⟩⟩

end Sys2Proof.Machine
end

section
/-! PROOFS. The bytes absorbed since START or reset, and CRCVAL as their checksum (10_state.md R31; O25). -/

namespace Sys2Proof.Safety

open Sys2Proof.Machine Sys2Proof.Claims

/-- The registers that record what has been absorbed agree: all but PHASE and CAUSE. -/
structure SameAbsorbed (s t : State) : Prop where
  crc : t.crc = s.crc
  tc : t.tc = s.tc
  tcn : t.tcn = s.tcn
  len : t.len = s.len

theorem SameAbsorbed.refl (s : State) : SameAbsorbed s s := ⟨rfl, rfl, rfl, rfl⟩

theorem sameAbsorbed_raiseFault (c : Cause) (s : State) : SameAbsorbed s (raiseFault c s) := ⟨rfl, rfl, rfl, rfl⟩

theorem sameAbsorbed_finishComputation (s : State) : SameAbsorbed s (finishComputation s) := ⟨rfl, rfl, rfl, rfl⟩

theorem sameAbsorbed_illegalWord (s : State) : SameAbsorbed s (illegalWord s) :=
  ⟨illegalWord_crc s, illegalWord_tc s, illegalWord_tcn s, illegalWord_len s⟩

theorem SameAbsorbed.capturedBytes_eq {s t : State} (h : SameAbsorbed s t) : capturedBytes t = capturedBytes s :=
  capturedBytes_congr h.tc h.tcn

theorem SameAbsorbed.crcCovers {s t : State} (h : SameAbsorbed s t) {P : List Byte} (hc : CrcCovers s P) : CrcCovers t P := by
  rwa [CrcCovers, h.crc, h.len, h.capturedBytes_eq]

/-- PUSH absorbs in phase TYPE, and in phase DATA below the bound, and nowhere else (42_commands.md R137, R138). -/
theorem execPush_sameAbsorbed {b : Byte} {s t : State} (h : execPush b s = .next t)
    (hp : ¬(s.phase = .type ∨ s.phase = .data ∧ s.len < Config.lenMax)) : SameAbsorbed s t := by
  rcases execPush_cases h with ⟨ht, -, -⟩ | ⟨ht, -, -⟩ | ⟨hd, hl, -⟩ | ⟨-, -, rfl⟩ | ⟨-, rfl⟩ | ⟨-, rfl⟩
  · exact absurd (.inl ht) hp
  · exact absurd (.inl ht) hp
  · exact absurd (.inr ⟨hd, hl⟩) hp
  · exact sameAbsorbed_raiseFault _ s
  · exact sameAbsorbed_raiseFault _ s
  · exact .refl _

theorem execFin_sameAbsorbed {s t : State} (h : execFin s = .next t) : SameAbsorbed s t := by
  rcases execFin_cases h with ⟨-, rfl⟩ | ⟨-, rfl⟩ | ⟨-, rfl⟩ | ⟨-, rfl⟩
  · exact sameAbsorbed_raiseFault _ s
  · exact sameAbsorbed_finishComputation s
  · exact sameAbsorbed_raiseFault _ s
  · exact .refl _

theorem execChk_sameAbsorbed {e : Word32} {s t : State} (h : execChk e s = .next t) : SameAbsorbed s t := by
  rcases execChk_cases h with ⟨-, rfl⟩ | ⟨-, -, rfl⟩ | ⟨-, -, rfl⟩ | ⟨-, rfl⟩ | ⟨-, rfl⟩
  · exact sameAbsorbed_raiseFault _ s
  · exact sameAbsorbed_finishComputation s
  · exact sameAbsorbed_raiseFault _ s
  · exact sameAbsorbed_raiseFault _ s
  · exact .refl _

/-- An accepted word that is neither START nor an absorbing PUSH absorbs nothing, legal or illegal. -/
theorem acceptWord_sameAbsorbed {w : Command} {s t : State} (h : acceptWord w s = .next t) (hw : NotStart w)
    (hp : ∀ b, decode w = .ok (.push b) → ¬(s.phase = .type ∨ s.phase = .data ∧ s.len < Config.lenMax)) :
    SameAbsorbed s t := by
  rcases acceptWord_cases h with ⟨i, hi, ht⟩ | ⟨e, -, rfl⟩
  · cases i with
    | start => exact absurd hi hw
    | push b => exact execPush_sameAbsorbed ht (hp b hi)
    | fin => exact execFin_sameAbsorbed ht
    | chk e => exact execChk_sameAbsorbed ht
  · exact sameAbsorbed_illegalWord s

/-- With the registers of reset nothing is captured, CRC covers the empty payload, and CRCVAL is 0 (10_state.md R36). -/
theorem nothingAbsorbed_of_reset_registers {t : State} (h : t.toRegisters = State.reset.toRegisters) :
    capturedBytes t = [] ∧ CrcCovers t [] ∧ crcVal t = 0x00000000#32 := by
  obtain ⟨S, pending⟩ := t
  subst h
  exact ⟨rfl, ⟨rfl, rfl⟩, BitVec.xor_self⟩

/-- LEN counts the covered payload (10_state.md R24). -/
theorem CrcCovers.length_eq {s : State} {P : List Byte} (h : CrcCovers s P) : P.length = s.len.toNat := h.2.symm

/-- CRCVAL is the checksum of what CRC covers (10_state.md R31, 41_crc32.md R115). -/
theorem CrcCovers.crcVal_eq {s : State} {P : List Byte} (h : CrcCovers s P) : crcVal s = crc32 (capturedBytes s ++ P) := by
  obtain ⟨hcrc, -⟩ := h
  rw [crcVal, crc32, hcrc]
  rfl

/-- A type byte captured before any payload extends what CRC covers (42_commands.md R133). -/
theorem CrcCovers.captureTypeByte {s : State} (b : Byte) (hn : s.tcn ≤ 3#3) (h : CrcCovers s []) :
    CrcCovers (captureTypeByte b s) [] := by
  obtain ⟨hcrc, hlen⟩ := h
  refine ⟨?_, hlen⟩
  rw [List.append_nil] at hcrc ⊢
  rw [capturedBytes_captureTypeByte b hn, crcBytes_concat, ← hcrc, captureTypeByte_crc]

/-- The verdict on the fourth byte touches PHASE and CAUSE alone (42_commands.md R134). -/
theorem sameAbsorbed_completeTypeCode (b : Byte) (s : State) :
    SameAbsorbed (captureTypeByte b s) (completeTypeCode b s) :=
  ⟨completeTypeCode_crc b s, completeTypeCode_tc b s, completeTypeCode_tcn b s, completeTypeCode_len b s⟩

/-- PUSH in phase TYPE captures its byte, whatever becomes of PHASE (42_commands.md R133, R134). -/
theorem execPush_type {s : State} (b : Byte) (hp : s.phase = .type) (hn : s.tcn ≤ 3#3) :
    ∃ t, execPush b s = .next t ∧ SameAbsorbed (captureTypeByte b s) t := by
  by_cases hlt : s.tcn < 3#3
  · exact ⟨_, by simp [execPush, hp, hlt], .refl _⟩
  · have heq : s.tcn = 3#3 := by bv_omega
    exact ⟨_, by simp [execPush, hp, heq], sameAbsorbed_completeTypeCode b s⟩

/-- PUSH in phase DATA below the bound (42_commands.md R136). -/
theorem execPush_data {s : State} (b : Byte) (hp : s.phase = .data) (hl : s.len < Config.lenMax) :
    execPush b s = .next { s with crc := crcByte s.crc b, len := s.len + 1#32 } := by
  simp [execPush, hp, absorbPayload, hl]

/-- Below the bound the payload counter does not overflow (42_commands.md R136). -/
theorem len_succ_toNat {n : Word32} (h : n < Config.lenMax) : (n + 1#32).toNat = n.toNat + 1 := by
  unfold Config.lenMax at h
  bv_omega

/-- A payload byte absorbed below the bound extends what CRC covers (42_commands.md R136). -/
theorem CrcCovers.absorb {s : State} {P : List Byte} (b : Byte) (hl : s.len < Config.lenMax) (h : CrcCovers s P) :
    CrcCovers { s with crc := crcByte s.crc b, len := s.len + 1#32 } (P ++ [b]) := by
  obtain ⟨hcrc, hlen⟩ := h
  constructor
  · change crcByte s.crc b = crcBytes _ (capturedBytes s ++ (P ++ [b]))
    rw [← List.append_assoc, crcBytes_concat, ← hcrc]
  · change (s.len + 1#32).toNat = (P ++ [b]).length
    rw [len_succ_toNat hl, hlen, List.length_append, List.length_singleton]

/-- Settles O25: what CRC covers is empty after START and reset, grows by the byte of an absorbing PUSH, and is kept by every
other accepted word. -/
theorem crcvalIsChecksumOfAbsorbed : Obligations.CrcvalIsChecksumOfAbsorbed := by
  unfold Obligations.CrcvalIsChecksumOfAbsorbed
  refine ⟨crcVal_eq_xor, fun s P h => ⟨h.length_eq, h.crcVal_eq, fun hinv hdone => ?_⟩, fun s => ?_, fun s p rest hs hr => ?_,
    nothingAbsorbed_of_reset_registers rfl, fun b s hp hn h => ?_, fun b s P hp hl h => ?_, fun w s t P h hw hpush hc => ?_⟩
  · obtain ⟨⟨hn, -⟩, -, -⟩ := hinv.i4 hdone
    rw [h.crcVal_eq, capturedBytes_of_complete hn]
  · exact ⟨_, execStart_eq s, nothingAbsorbed_of_reset_registers (startComputation_toRegisters s)⟩
  · exact ⟨_, (step_cons hs).trans (clockEdge_reset hr _),
      nothingAbsorbed_of_reset_registers (resetRegisters_toRegisters _)⟩
  · obtain ⟨t, ht, hsame⟩ := execPush_type b hp hn
    exact ⟨t, ht, hsame.capturedBytes_eq.trans (capturedBytes_captureTypeByte b hn), hsame.crcCovers (h.captureTypeByte b hn)⟩
  · exact ⟨_, execPush_data b hp hl, rfl, h.absorb b hl⟩
  · have hsame := acceptWord_sameAbsorbed h hw hpush
    exact ⟨hsame.capturedBytes_eq, hsame.crcCovers hc⟩

end Sys2Proof.Safety
end

section
/-! PROOFS. The decoder by the fields of a word, and the opcode map by mask and match (30_encoding.md R70 to R77; O3, O4). -/

namespace Sys2Proof

open Sys2Proof.Claims

/-- The fields of a word that decodes to a command (30_encoding.md R71 to R74, R77). -/
def HasFieldsOf (w : Command) : Instr → Prop
  | .start => opField w = 0x1#4 ∧ argField w = 0#32
  | .push b => opField w = 0x2#4 ∧ reservedB w = 0#24 ∧ byteField w = b
  | .fin => opField w = 0x3#4 ∧ argField w = 0#32
  | .chk e => opField w = 0x4#4 ∧ argField w = e

theorem decode_of_hasFieldsOf {w : Command} {i : Instr} (h : HasFieldsOf w i) : decode w = .ok i := by
  cases i with
  | start =>
    obtain ⟨hop, harg⟩ := h
    simp [decode, hop, harg]
  | push b =>
    obtain ⟨hop, hres, rfl⟩ := h
    simp [decode, hop, hres]
  | fin =>
    obtain ⟨hop, harg⟩ := h
    simp [decode, hop, harg]
  | chk e =>
    obtain ⟨hop, rfl⟩ := h
    simp [decode, hop]

theorem hasFieldsOf_of_decode {w : Command} {i : Instr} (h : decode w = .ok i) : HasFieldsOf w i := by
  unfold decode at h
  split_ifs at h with h1 harg h2 hres h3 harg h4 <;> obtain rfl := Except.ok.inj h
  · exact ⟨h1, harg⟩
  · exact ⟨h2, hres, rfl⟩
  · exact ⟨h3, harg⟩
  · exact ⟨h4, rfl⟩

/-- A word decodes to a command exactly when it has the command's fields (30_encoding.md R77). -/
theorem decode_eq_ok_iff {w : Command} {i : Instr} : decode w = .ok i ↔ HasFieldsOf w i :=
  ⟨hasFieldsOf_of_decode, decode_of_hasFieldsOf⟩

theorem decode_push_iff {w : Command} :
    (∃ b, decode w = .ok (.push b)) ↔ opField w = 0x2#4 ∧ reservedB w = 0#24 := by
  simp [decode_eq_ok_iff, HasFieldsOf]

theorem decode_chk_iff {w : Command} : (∃ e, decode w = .ok (.chk e)) ↔ opField w = 0x4#4 := by
  simp [decode_eq_ok_iff, HasFieldsOf]

/-! ### Mask and match on the two fields -/

theorem wordOf_inj {op op' : BitVec 4} {arg arg' : Word32} : wordOf op arg = wordOf op' arg' ↔ op = op' ∧ arg = arg' := by
  constructor
  · intro h
    exact ⟨by rw [← opField_wordOf op arg, h, opField_wordOf], by rw [← argField_wordOf op arg, h, argField_wordOf]⟩
  · rintro ⟨rfl, rfl⟩
    rfl

/-- A mask and a match act on `op` and `arg` apart (30_encoding.md R70, R75). -/
theorem and_wordOf_eq_iff {w : Command} {opMask opMatch : BitVec 4} {argMask argMatch : Word32} :
    w &&& wordOf opMask argMask = wordOf opMatch argMatch ↔
      opField w &&& opMask = opMatch ∧ argField w &&& argMask = argMatch := by
  have hand : w &&& wordOf opMask argMask = wordOf (opField w &&& opMask) (argField w &&& argMask) := by
    conv_lhs => rw [← wordOf_fields w]
    exact BitVec.and_append
  rw [hand, wordOf_inj]

/-- Under the mask of format N a word is its `op` and its `arg` (30_encoding.md R71). -/
theorem and_maskN_eq_iff {w : Command} {op : BitVec 4} :
    w &&& 0xFFFFFFFFF#36 = wordOf op 0#32 ↔ opField w = op ∧ argField w = 0#32 := by
  rw [show 0xFFFFFFFFF#36 = wordOf (BitVec.allOnes 4) (BitVec.allOnes 32) from rfl, and_wordOf_eq_iff,
    BitVec.and_allOnes, BitVec.and_allOnes]

theorem reservedB_append_byteField (w : Command) : reservedB w ++ byteField w = argField w := by
  have happ : (reservedB w ++ byteField w : Word32) = (argField w).extractLsb' 0 32 := by
    rw [reservedB_eq, byteField_eq]
    exact BitVec.extractLsb'_append_extractLsb'_eq_extractLsb' rfl
  rw [happ, BitVec.extractLsb'_eq_self]

theorem argField_and_reservedMask_eq_zero_iff {w : Command} :
    argField w &&& 0xFFFFFF00#32 = 0#32 ↔ reservedB w = 0#24 := by
  rw [← reservedB_append_byteField, show 0xFFFFFF00#32 = BitVec.allOnes 24 ++ 0#8 from rfl, BitVec.and_append,
    BitVec.and_allOnes, BitVec.and_zero, show 0#32 = 0#24 ++ 0#8 from rfl, BitVec.append_left_inj]

/-- Under the mask of format B a word is its `op` and its reserved bits (30_encoding.md R72). -/
theorem and_maskB_eq_iff {w : Command} {op : BitVec 4} :
    w &&& 0xFFFFFFF00#36 = wordOf op 0#32 ↔ opField w = op ∧ reservedB w = 0#24 := by
  rw [show 0xFFFFFFF00#36 = wordOf (BitVec.allOnes 4) 0xFFFFFF00#32 from rfl, and_wordOf_eq_iff, BitVec.and_allOnes,
    argField_and_reservedMask_eq_zero_iff]

/-- Under the mask of format W a word is its `op` (30_encoding.md R73). -/
theorem and_maskW_eq_iff {w : Command} {op : BitVec 4} : w &&& 0xF00000000#36 = wordOf op 0#32 ↔ opField w = op := by
  rw [show 0xF00000000#36 = wordOf (BitVec.allOnes 4) 0#32 from rfl, and_wordOf_eq_iff, BitVec.and_allOnes, BitVec.and_zero,
    eq_self, and_true]

/-! ### At most one row -/

theorem opField_and (w m : Command) : opField (w &&& m) = opField w &&& opField m := BitVec.extractLsb'_and

/-- Every mask of the map holds the whole of `op`. -/
theorem opField_maskBits {r : OpcodeRow} (hr : r ∈ opcodeRows) : opField r.maskBits = BitVec.allOnes 4 := by
  revert r
  decide

/-- A row selects words of its own `op` alone (30_encoding.md R75). -/
theorem opField_of_rowSelects {r : OpcodeRow} {w : Command} (hr : r ∈ opcodeRows) (h : rowSelects r w = true) :
    opField r.matchBits = opField w := by
  have hmatch : w &&& r.maskBits = r.matchBits := eq_of_beq h
  rw [← hmatch, opField_and, opField_maskBits hr, BitVec.and_allOnes]

/-- The `op` fields of the map differ (30_encoding.md R75). -/
theorem opcodeRows_ops_nodup : (opcodeRows.map fun r => opField r.matchBits).Nodup := by decide

theorem opcodeRows_filter_length_le_one (w : Command) : (opcodeRows.filter (rowSelects · w)).length ≤ 1 := by
  calc (opcodeRows.filter (rowSelects · w)).length
      = opcodeRows.countP (rowSelects · w) := List.countP_eq_length_filter.symm
    _ ≤ opcodeRows.countP (fun r => opField r.matchBits == opField w) :=
        List.countP_mono_left fun r hr h => beq_iff_eq.mpr (opField_of_rowSelects hr h)
    _ = (opcodeRows.map fun r => opField r.matchBits).count (opField w) := by rw [List.count, List.countP_map, Function.comp_def]
    _ ≤ 1 := List.nodup_iff_count_le_one.mp opcodeRows_ops_nodup _

/-- Settles O3: each row's mask and match say the fields by which `decode` chooses its command, and the rows differ in `op`. -/
theorem opcodeMapSelects : Obligations.OpcodeMapSelects := by
  unfold Obligations.OpcodeMapSelects
  intro w
  refine ⟨decode_eq_ok_iff.trans and_maskN_eq_iff.symm, decode_push_iff.trans and_maskB_eq_iff.symm,
    decode_eq_ok_iff.trans and_maskN_eq_iff.symm, decode_chk_iff.trans and_maskW_eq_iff.symm, fun b h => ?_, fun e h => ?_,
    opcodeRows_filter_length_le_one w⟩
  · obtain ⟨-, -, hbyte⟩ := decode_eq_ok_iff.mp h
    exact hbyte.symm
  · obtain ⟨-, harg⟩ := decode_eq_ok_iff.mp h
    exact harg.symm

/-! ### The fields as numbers -/

theorem opField_eq_iff {w : Command} {op : BitVec 4} : opField w = op ↔ opNat w = op.toNat := by
  rw [← BitVec.toNat_inj, opField_toNat, opNat]

theorem argField_eq_zero_iff {w : Command} : argField w = 0#32 ↔ argNat w = 0 := by
  rw [← BitVec.toNat_inj, argField_toNat, argNat, BitVec.toNat_ofNat, Nat.zero_mod]

theorem reservedB_eq_zero_iff {w : Command} : reservedB w = 0#24 ↔ argNat w / 2 ^ 8 = 0 := by
  rw [← BitVec.toNat_inj, reservedB_toNat, argNat, BitVec.toNat_ofNat, Nat.zero_mod]

theorem argField_eq_ofNat (w : Command) : argField w = BitVec.ofNat 32 (argNat w) := by
  rw [argNat, ← argField_toNat, BitVec.ofNat_toNat, BitVec.setWidth_eq]

theorem byteField_eq_ofNat (w : Command) : byteField w = BitVec.ofNat 8 (argNat w) := by
  apply BitVec.eq_of_toNat_eq
  rw [byteField_toNat, BitVec.toNat_ofNat, argNat]
  omega

/-- Settles O4, from the fields of `decode_eq_ok_iff` as numbers. -/
theorem decoderReadsFields : Obligations.DecoderReadsFields := by
  unfold Obligations.DecoderReadsFields
  intro w
  refine ⟨fun ⟨hop, harg⟩ => ?_, fun ⟨hop, hres⟩ => ?_, fun ⟨hop, harg⟩ => ?_, fun hop => ?_, fun h1 h2 h3 h4 => ?_⟩
  · exact decode_eq_ok_iff.mpr ⟨opField_eq_iff.mpr hop, argField_eq_zero_iff.mpr harg⟩
  · exact decode_eq_ok_iff.mpr ⟨opField_eq_iff.mpr hop, reservedB_eq_zero_iff.mpr hres, byteField_eq_ofNat w⟩
  · exact decode_eq_ok_iff.mpr ⟨opField_eq_iff.mpr hop, argField_eq_zero_iff.mpr harg⟩
  · exact decode_eq_ok_iff.mpr ⟨opField_eq_iff.mpr hop, argField_eq_ofNat w⟩
  · cases hd : decode w with
    | error e => exact ⟨e, rfl⟩
    | ok i =>
      have hi := decode_eq_ok_iff.mp hd
      cases i with
      | start =>
        obtain ⟨hop, harg⟩ := hi
        exact absurd ⟨opField_eq_iff.mp hop, argField_eq_zero_iff.mp harg⟩ h1
      | push b =>
        obtain ⟨hop, hres, -⟩ := hi
        exact absurd ⟨opField_eq_iff.mp hop, reservedB_eq_zero_iff.mp hres⟩ h2
      | fin =>
        obtain ⟨hop, harg⟩ := hi
        exact absurd ⟨opField_eq_iff.mp hop, argField_eq_zero_iff.mp harg⟩ h3
      | chk e =>
        obtain ⟨hop, -⟩ := hi
        exact absurd (opField_eq_iff.mp hop) h4

end Sys2Proof
end

section
/-! PROOFS. The TypeCode decoder: the letter test, the property bits, and TC_OK by phase (40_typecode.md R90 to R97; O17 to
O20). -/

namespace Sys2Proof.Machine

/-! ### The letter test -/

/-- `is_letter` with the codes of the letters written out (40_typecode.md R90). -/
theorem isLetter_iff {b : Byte} : isLetter b = true ↔ (0x41#8 ≤ b ∧ b ≤ 0x5A#8) ∨ (0x61#8 ≤ b ∧ b ≤ 0x7A#8) := by
  simp only [isLetter, Bool.or_eq_true, Bool.and_eq_true, decide_eq_true_iff]
  rfl

/-- The two ranges of letters are one range of `b[4:0]` under the two values of bit 5 (40_typecode.md R90). -/
theorem isLetter_iff_fields {b : Byte} :
    isLetter b = true ↔ b.extractLsb' 6 2 = 1#2 ∧ 1#5 ≤ b.extractLsb' 0 5 ∧ b.extractLsb' 0 5 ≤ 26#5 := by
  have hhigh : (b.extractLsb' 6 2).toNat = b.toNat / 2 ^ 6 % 2 ^ 2 := by
    rw [BitVec.extractLsb'_toNat, Nat.shiftRight_eq_div_pow]
  have hlow : (b.extractLsb' 0 5).toNat = b.toNat % 2 ^ 5 := by
    rw [BitVec.extractLsb'_toNat, Nat.shiftRight_zero]
  rw [isLetter_iff, ← BitVec.toNat_inj]
  simp only [BitVec.le_def, BitVec.toNat_ofNat, hhigh, hlow]
  omega

theorem isLetter_eq_false_of_digit {b : Byte} (h : 0x30#8 ≤ b ∧ b ≤ 0x39#8) : isLetter b = false := by
  rw [← Bool.not_eq_true, isLetter_iff]
  bv_omega

/-- No letter has bit 7 set (40_typecode.md R90). -/
theorem isLetter_eq_false_of_bit7 {b : Byte} (h : 0x80#8 ≤ b) : isLetter b = false := by
  rw [← Bool.not_eq_true, isLetter_iff]
  bv_omega

/-- The uncaptured byte is no letter (40_typecode.md R91). -/
@[simp] theorem isLetter_zero : isLetter 0x00#8 = false := by decide

/-- Settles O17: the two forms of the test, and the corner cases by its ranges. -/
theorem letterTest : Obligations.LetterTest := by
  unfold Obligations.LetterTest
  exact ⟨fun _ => isLetter_iff, fun _ => isLetter_iff_fields, by decide, by decide,
    fun _ => isLetter_eq_false_of_digit, fun _ => isLetter_eq_false_of_bit7, by decide, by decide⟩

theorem tcLetters_iff {t : TypeCode} : tcLetters t = true ↔
    isLetter t.b0 = true ∧ isLetter t.b1 = true ∧ isLetter t.b2 = true ∧ isLetter t.b3 = true := by
  simp [tcLetters, and_assoc]

theorem tcLetters_eq_false_of_b3 {t : TypeCode} (h : t.b3 = 0x00#8) : tcLetters t = false := by
  simp [tcLetters, h]

/-! ### The property bits -/

/-- Masking with 0x20 keeps bit `FLAG_BIT` alone (40_typecode.md, section 2). -/
theorem and_flagMask (b : Byte) : b &&& 0x20#8 = if b.getLsbD Config.flagBit then 0x20#8 else 0#8 :=
  BitVec.and_twoPow b Config.flagBit

theorem and_flagMask_eq_zero_iff {b : Byte} : b &&& 0x20#8 = 0#8 ↔ b.getLsbD Config.flagBit = false := by
  rw [and_flagMask]
  cases b.getLsbD Config.flagBit <;> decide

theorem and_flagMask_eq_mask_iff {b : Byte} : b &&& 0x20#8 = 0x20#8 ↔ b.getLsbD Config.flagBit = true := by
  rw [and_flagMask]
  cases b.getLsbD Config.flagBit <;> decide

theorem isCritical_iff {t : TypeCode} : isCritical t = true ↔ t.b0.getLsbD Config.flagBit = false := by
  rw [isCritical, Bool.not_eq_true']

theorem isPublic_iff {t : TypeCode} : isPublic t = true ↔ t.b1.getLsbD Config.flagBit = false := by
  rw [isPublic, Bool.not_eq_true']

theorem isReservedBitValid_iff {t : TypeCode} : isReservedBitValid t = true ↔ t.b2.getLsbD Config.flagBit = false := by
  rw [isReservedBitValid, Bool.not_eq_true']

/-- The one property that is true when its bit is set (40_typecode.md R95). -/
theorem isSafeToCopy_iff {t : TypeCode} : isSafeToCopy t = true ↔ t.b3.getLsbD Config.flagBit = true := .rfl

theorem isValid_eq (t : TypeCode) : isValid t = isReservedBitValid t := rfl

/-- Settles O19: each property is its bit 5, which the mask 0x20 reads, and stands in its own bit of STATUS. -/
theorem propertyPolarities : Obligations.PropertyPolarities := by
  unfold Obligations.PropertyPolarities
  refine ⟨fun t => ?_, fun s => ?_, by decide⟩
  · exact ⟨isCritical_iff.trans and_flagMask_eq_zero_iff.symm, isCritical_iff,
      isPublic_iff.trans and_flagMask_eq_zero_iff.symm, isPublic_iff,
      isReservedBitValid_iff.trans and_flagMask_eq_zero_iff.symm, isReservedBitValid_iff,
      isSafeToCopy_iff.trans and_flagMask_eq_mask_iff.symm, isSafeToCopy_iff, isValid_eq t⟩
  · exact ⟨statusView_getLsbD s 9, statusView_getLsbD s 10, statusView_getLsbD s 11,
      (statusView_getLsbD s 11).trans (isValid_eq s.tc).symm, statusView_getLsbD s 12⟩

end Sys2Proof.Machine

namespace Sys2Proof.Safety

open Sys2Proof.Machine

/-! ### The letters and TC_OK in states that meet the invariants -/

/-- With fewer than four bytes captured TC[3] is 0x00, which is no letter (40_typecode.md R91, invariant 6 of 10_state.md
R26). -/
theorem BlockInv.tcLetters_eq_false {s : State} (h : BlockInv s) (hn : s.tcn < 4#3) : tcLetters s.tc = false := by
  have hle : s.tcn.toNat ≤ 3 := by bv_omega
  exact tcLetters_eq_false_of_b3 (h.i6 3 (by decide) hle)

/-- Settles O18: the conjunction, STATUS bit 8, and TC[3] uncaptured while TCN is below 4. -/
theorem tcLettersRule : Obligations.TcLettersRule := by
  unfold Obligations.TcLettersRule
  exact ⟨fun _ => tcLetters_iff, fun s => statusView_getLsbD s 8, fun _ h => h.tcLetters_eq_false, by decide, by decide⟩

/-- TC_OK says that the type code is complete (40_typecode.md R97). -/
theorem tcOk_iff {s : State} : tcOk s = true ↔ TypeCodeComplete s := by
  rw [tcOk, Bool.and_eq_true, decide_eq_true_iff, Config.tcBytes]

theorem tcOk_eq_false_of_letters {s : State} (h : tcLetters s.tc = false) : tcOk s = false := by
  simp [tcOk, h]

/-- DATA and DONE are entered with a complete type code alone (invariants 3 and 4 of 10_state.md R26). -/
theorem BlockInv.typeCodeComplete {s : State} (h : BlockInv s) (hp : s.phase = .data ∨ s.phase = .done) :
    TypeCodeComplete s := by
  rcases hp with hd | hd
  · obtain ⟨hc, -, -⟩ := h.i3 hd
    exact hc
  · obtain ⟨hc, -, -⟩ := h.i4 hd
    exact hc

/-- The causes raised in phase TYPE leave no complete type code: a byte that is no letter, or too few bytes (invariants 9 and
10 of 10_state.md R26). -/
theorem BlockInv.tcLetters_eq_false_of_cause {s : State} (h : BlockInv s)
    (hc : s.cause = .invalidTypeCode ∨ s.cause = .truncatedInput) : tcLetters s.tc = false := by
  rcases hc with hc | hc
  · obtain ⟨-, hl, -⟩ := h.i9 hc
    exact hl
  · exact h.tcLetters_eq_false (h.i10 hc)

/-- Settles O20: TC_OK is a complete type code, which the invariants give or exclude by phase and cause. -/
theorem tcOkByPhase : Obligations.TcOkByPhase := by
  unfold Obligations.TcOkByPhase
  refine ⟨fun _ => tcOk_iff, fun s h => ⟨fun hp => ?_, fun hp => ?_, fun _ hc => ?_, fun _ hc => ?_⟩⟩
  · exact tcOk_iff.mpr (h.typeCodeComplete hp)
  · obtain ⟨hn, -, -⟩ := h.i2 hp
    exact tcOk_eq_false_of_letters (h.tcLetters_eq_false hn)
  · exact tcOk_eq_false_of_letters (h.tcLetters_eq_false_of_cause hc)
  · exact tcOk_iff.mpr (h.i12 (hc.imp_right .inl))

end Sys2Proof.Safety
end

section
/-! PROOFS. The CRC's constants, one bit, one byte in its two forms, and the checksum's values (41_crc32.md R111 to R115; O7 to
O9). -/

namespace Sys2Proof.Machine

open Sys2Proof.Claims

/-! ### The generator polynomial -/

/-- The reflected polynomial is the generator read from the other end (41_crc32.md R111). -/
theorem crcPolyRefl_getLsbD : ∀ i : Fin 32, Config.crcPolyRefl.getLsbD i = Config.crcPoly.getLsbD (31 - i) := by decide

/-- Settles O7: the constants evaluated, and the reversal bit by bit. -/
theorem polynomialConstants : Obligations.PolynomialConstants := by
  unfold Obligations.PolynomialConstants
  exact ⟨by decide, rfl, rfl, crcPolyRefl_getLsbD, by decide⟩

/-! ### One bit -/

/-- One bit, by whether register bit and data bit agree (41_crc32.md R112). -/
theorem crcBit_eq_ite (c : Word32) (d : Bool) :
    crcBit c d = if c.getLsbD 0 = d then c >>> 1 else c >>> 1 ^^^ Config.crcPolyRefl := by
  split
  next h => exact crcBit_of_eq h
  next h => exact crcBit_of_ne h

/-- One bit as a shift and the polynomial times the difference of register bit and data bit: a sum over GF(2). -/
theorem crcBit_eq_xor (c : Word32) (d : Bool) :
    crcBit c d = c >>> 1 ^^^ (if c.getLsbD 0 ^^ d then Config.crcPolyRefl else 0#32) := by
  by_cases h : c.getLsbD 0 = d
  · rw [crcBit_of_eq h, h, Bool.xor_self, if_neg Bool.false_ne_true, BitVec.xor_zero]
  · rw [crcBit_of_ne h, if_pos (bne_iff_ne.mpr h)]

/-- One bit is linear over GF(2) (41_crc32.md R118). -/
theorem crcBit_xor (c e : Word32) (d f : Bool) : crcBit (c ^^^ e) (d ^^ f) = crcBit c d ^^^ crcBit e f := by
  have hpoly : ∀ p q : Bool, (if p ^^ q then Config.crcPolyRefl else 0#32) =
      (if p then Config.crcPolyRefl else 0#32) ^^^ (if q then Config.crcPolyRefl else 0#32) := by decide
  have hbits : ((c ^^^ e).getLsbD 0 ^^ (d ^^ f)) = ((c.getLsbD 0 ^^ d) ^^ (e.getLsbD 0 ^^ f)) := by
    rw [BitVec.getLsbD_xor, Bool.xor_assoc, Bool.xor_assoc, Bool.xor_left_comm d]
  rw [crcBit_eq_xor, crcBit_eq_xor c, crcBit_eq_xor e, hbits, hpoly, BitVec.ushiftRight_xor_distrib]
  ac_rfl

/-! ### One byte -/

/-- One byte as a fold over the positions of its bits (41_crc32.md R113). -/
theorem crcByte_eq_foldl_range (c : Word32) (b : Byte) :
    crcByte c b = (List.range 8).foldl (fun r i => crcBit r (b.getLsbD i)) c := rfl

/-- A step of the equivalent form is one bit with data bit 0. -/
theorem shiftStep_eq_crcBit (c : Word32) : shiftStep c = crcBit c false := by
  rw [crcBit_eq_xor, Bool.xor_false]
  rfl

/-- A word xor-ed into the register gives its bit 0 to this step as the data bit; the rest waits one place lower. -/
theorem shiftStep_xor (c w : Word32) : shiftStep (c ^^^ w) = crcBit c (w.getLsbD 0) ^^^ w >>> 1 := by
  calc shiftStep (c ^^^ w) = crcBit (c ^^^ w) (w.getLsbD 0 ^^ w.getLsbD 0) := by rw [shiftStep_eq_crcBit, Bool.xor_self]
    _ = crcBit c (w.getLsbD 0) ^^^ crcBit w (w.getLsbD 0) := crcBit_xor ..
    _ = crcBit c (w.getLsbD 0) ^^^ w >>> 1 := by rw [crcBit_of_eq (c := w) rfl]

/-- The reason of 41_crc32.md R113 that the two forms agree: after `n` steps the low `n` bits of a word xor-ed in at the start
have been taken as data bits, in order, and the rest has moved down `n` places. -/
theorem shiftStep_iterate_xor (c w : Word32) (n : Nat) :
    shiftStep^[n] (c ^^^ w) = (List.range n).foldl (fun r i => crcBit r (w.getLsbD i)) c ^^^ w >>> n := by
  induction n with
  | zero => simp
  | succ n ih =>
    rw [Function.iterate_succ_apply', ih, shiftStep_xor, List.range_succ, List.foldl_concat, BitVec.shiftRight_add,
      BitVec.getLsbD_ushiftRight, Nat.add_zero]

/-- The equivalent form of the byte update (41_crc32.md R113). -/
theorem crcByte_eq_shiftStep_iterate (c : Word32) (b : Byte) : crcByte c b = shiftStep^[8] (c ^^^ b.zeroExtend 32) := by
  have hrest : b.zeroExtend 32 >>> 8 = 0#32 := by
    ext i hi
    simp
  rw [shiftStep_iterate_xor, hrest, BitVec.xor_zero, crcByte_eq_foldl_range]
  rfl

/-- A byte may be xor-ed into the register first (41_crc32.md R113). -/
theorem crcByte_eq_crcByte_xor_zero (c : Word32) (b : Byte) : crcByte c b = crcByte (c ^^^ b.zeroExtend 32) 0x00#8 := by
  have hzero : (0x00#8).zeroExtend 32 = 0#32 := rfl
  rw [crcByte_eq_shiftStep_iterate, crcByte_eq_shiftStep_iterate (c ^^^ _), hzero, BitVec.xor_zero]

/-- Settles O8, the equivalent form by `shiftStep_iterate_xor`; the example and the corner cases are evaluated. -/
theorem crcByteForms : Obligations.CrcByteForms := by
  unfold Obligations.CrcByteForms
  exact ⟨crcBit_eq_ite, crcByte_eq_foldl_range, crcByte_eq_shiftStep_iterate, crcByte_eq_crcByte_xor_zero, by decide,
    by decide, by decide, by decide, by decide, by decide, by decide, by decide⟩

/-! ### The checksum -/

theorem crc32_eq_xor (s : List Byte) : crc32 s = crcBytes 0xFFFFFFFF#32 s ^^^ 0xFFFFFFFF#32 := rfl

/-- Settles O9: the definition with its constants written out, and the three values evaluated. -/
theorem checksumValues : Obligations.ChecksumValues := by
  unfold Obligations.ChecksumValues
  exact ⟨crc32_eq_xor, by decide, by decide +kernel, by decide +kernel⟩

end Sys2Proof.Machine
end

section
/-! PROOFS. Each command by phase: START, FIN, CHK, PUSH, an illegal word, and idle edges (42_commands.md R131 to R141, R146;
O28 to O36, O48). -/

namespace Sys2Proof.Machine

open Sys2Proof.Safety Sys2Proof.Claims

/-! ### What each command answers in each phase -/

theorem startState_crc (rest : List PortSample) : (startState rest).crc = 0xFFFFFFFF#32 := rfl

theorem exec_start (s : State) : exec .start s = .next (startState s.pending) := rfl

/-- After the end of a computation every command but START is out of sequence (42_commands.md R138 to R140). -/
theorem exec_of_done {i : Instr} {s : State} (hp : s.phase = .done) (hi : i ≠ .start) :
    exec i s = .next (raiseFault .illegalSequence s) := by
  cases i with
  | start => exact absurd rfl hi
  | push b => simp [exec, execPush, hp]
  | fin => simp [exec, execFin, hp]
  | chk e => simp [exec, execChk, hp]

theorem exec_fin_of_type {s : State} (hp : s.phase = .type) : exec .fin s = .next (raiseFault .truncatedInput s) := by
  simp [exec, execFin, hp]

theorem exec_fin_of_data {s : State} (hp : s.phase = .data) : exec .fin s = .next (finishComputation s) := by
  simp [exec, execFin, hp]

theorem exec_chk_of_type {s : State} (e : Word32) (hp : s.phase = .type) :
    exec (.chk e) s = .next (raiseFault .truncatedInput s) := by
  simp [exec, execChk, hp]

theorem exec_chk_of_crcVal_eq {e : Word32} {s : State} (hp : s.phase = .data) (he : crcVal s = e) :
    exec (.chk e) s = .next (finishComputation s) := by
  simp [exec, execChk, hp, he]

theorem exec_chk_of_crcVal_ne {e : Word32} {s : State} (hp : s.phase = .data) (he : crcVal s ≠ e) :
    exec (.chk e) s = .next (raiseFault .invalidCrc s) := by
  simp [exec, execChk, hp, he]

theorem exec_push_of_tcn_lt {s : State} (b : Byte) (hp : s.phase = .type) (hn : s.tcn < 3#3) :
    exec (.push b) s = .next (captureTypeByte b s) := by
  simp [exec, execPush, hp, hn]

theorem exec_push_of_tcn_eq {s : State} (b : Byte) (hp : s.phase = .type) (hn : s.tcn = 3#3) :
    exec (.push b) s = .next (completeTypeCode b s) := by
  simp [exec, execPush, hp, hn]

theorem exec_push_of_len_eq {s : State} (b : Byte) (hp : s.phase = .data) (hl : s.len = Config.lenMax) :
    exec (.push b) s = .next (raiseFault .invalidChunkLength s) := by
  simp [exec, execPush, absorbPayload, hp, hl]

/-! ### STATUS -/

/-- STATUS is a function of TC, TCN, CAUSE and PHASE (10_state.md R34). -/
theorem statusView_congr {s t : State} (htc : s.tc = t.tc) (htcn : s.tcn = t.tcn) (hc : s.cause = t.cause)
    (hp : s.phase = t.phase) : statusView s = statusView t := by
  rw [statusView, statusView, tcOk, tcOk, htc, htcn, hc, hp]

theorem statusView_startState (rest : List PortSample) : statusView (startState rest) = 0x00000E00#32 :=
  (statusView_congr rfl rfl rfl rfl).trans statusView_reset

/-! ### START -/

/-- START changes nothing in a state that has the registers of reset already (42_commands.md R131). -/
theorem startState_pending_of_reset_registers {s : State} (h : SameRegisters s State.reset) : startState s.pending = s := by
  obtain ⟨S, pending⟩ := s
  obtain rfl : S = State.reset.toRegisters := h
  rfl

/-- Settles O28: no command but START leaves FAULT (`exec_of_fault`), and out of DONE every other one faults
(`exec_of_done`). -/
theorem startInitialises : Obligations.StartInitialises := by
  unfold Obligations.StartInitialises
  refine ⟨exec_start, statusView_startState, fun s h => ?_, fun i s t h => ⟨fun hp ht => ?_, fun hp _ ht => ?_⟩,
    fun rest => exec_start _⟩
  · rw [exec_start, startState_pending_of_reset_registers h]
  · by_contra hi
    obtain rfl : s = t := Host.Outcome.next.inj ((exec_of_fault hp hi).symm.trans h)
    exact ht hp
  · by_contra hi
    obtain rfl := Host.Outcome.next.inj ((exec_of_done hp hi).symm.trans h)
    exact ht (raiseFault_phase ..)

/-! ### FIN and CHK -/

/-- Settles O34, phase by phase; the example reads CRC through the port. -/
theorem finByPhase : Obligations.FinByPhase := by
  unfold Obligations.FinByPhase
  refine ⟨fun s => ⟨exec_fin_of_type, fun hp => ⟨exec_fin_of_data hp, rfl⟩, fun hp => exec_of_done hp nofun,
    fun hp => exec_of_fault hp nofun⟩, fun s hp _ hcrc hlen => ⟨_, exec_fin_of_data hp, rfl, ?_, hlen⟩⟩
  rw [rdata_zero, crcVal_eq_xor, finishComputation_crc, hcrc]
  rfl

/-- Settles O35, phase by phase; in DATA the comparison is of CRCVAL with the operand. -/
theorem chkByPhase : Obligations.ChkByPhase := by
  unfold Obligations.ChkByPhase
  refine ⟨fun e s => ⟨exec_chk_of_type e, fun hp he => ⟨exec_chk_of_crcVal_eq hp he, rfl⟩,
    fun hp he => ⟨exec_chk_of_crcVal_ne hp he, rfl⟩, fun hp => exec_of_done hp nofun, fun hp => exec_of_fault hp nofun⟩,
    fun s hp hcrc => ?_⟩
  have hval : crcVal s = 0xD2BC3F73#32 := by
    rw [crcVal_eq_xor, hcrc]
    rfl
  exact ⟨exec_chk_of_crcVal_eq hp hval, exec_chk_of_crcVal_ne hp (by rw [hval]; decide)⟩

/-! ### PUSH of a type byte -/

/-- A type byte before the fourth leaves TC[3] (42_commands.md R133). -/
theorem tcSet_b3_of_lt (t : TypeCode) {n : Nat} (b : Byte) (hn : n < 3) : (tcSet t n b).b3 = t.b3 := by
  interval_cases n <;> rfl

/-- Before the fourth byte is captured the letters are not complete, after this PUSH as before it (invariant 6 of 10_state.md
R26, 42_commands.md R133). -/
theorem tcLetters_captureTypeByte_eq_false {s : State} (b : Byte) (h : BlockInv s) (hn : s.tcn ≤ 2#3) :
    tcLetters (captureTypeByte b s).tc = false := by
  have hlt : s.tcn.toNat < 3 := by bv_omega
  apply tcLetters_eq_false_of_b3
  calc (captureTypeByte b s).tc.b3 = s.tc.b3 := tcSet_b3_of_lt s.tc b hlt
    _ = 0x00#8 := h.i6 3 (by decide) hlt.le

/-- A captured byte is stored at the TCN it finds, whose successor is the new TCN (42_commands.md R133, R134). -/
theorem captureTypeByte_of_tcn {s : State} {n : BitVec 3} (b : Byte) (hn : s.tcn = n) :
    captureTypeByte b s = { s with tc := tcSet s.tc n.toNat b, tcn := n + 1#3, crc := crcByte s.crc b } := by
  subst hn
  rfl

/-- PUSH before the fourth type byte, with TCN given as a number (42_commands.md R133). -/
theorem exec_push_of_tcn {s : State} {n : BitVec 3} (b : Byte) (hp : s.phase = .type) (hlt : n < 3#3) (hn : s.tcn = n) :
    exec (.push b) s = .next { s with tc := tcSet s.tc n.toNat b, tcn := n + 1#3, crc := crcByte s.crc b } := by
  rw [exec_push_of_tcn_lt b hp (hn ▸ hlt), captureTypeByte_of_tcn b hn]

/-- Settles O29: the three places of `exec_push_of_tcn`, and TC[3] still uncaptured after the PUSH. -/
theorem pushCapturesTypeByte : Obligations.PushCapturesTypeByte := by
  unfold Obligations.PushCapturesTypeByte
  refine ⟨fun b s hp => ⟨exec_push_of_tcn b hp (by decide), exec_push_of_tcn b hp (by decide),
    exec_push_of_tcn b hp (by decide)⟩, fun b s t hinv hp hn ht => ?_,
    fun rest => ?_⟩
  · have hlt : s.tcn < 3#3 := by bv_omega
    obtain rfl := Host.Outcome.next.inj ((exec_push_of_tcn_lt b hp hlt).symm.trans ht)
    have hletters := tcLetters_captureTypeByte_eq_false b hinv hn
    exact ⟨(statusView_getLsbD _ 8).trans hletters, (statusView_getLsbD _ 13).trans (tcOk_eq_false_of_letters hletters)⟩
  · have hcrc : (captureTypeByte 0x52#8 (startState rest)).crc = 0xA89820AA#32 := by
      rw [captureTypeByte_crc, startState_crc]
      decide
    refine ⟨_, exec_push_of_tcn_lt _ rfl (by decide : 0#3 < 3#3), rfl, rfl, hcrc, ?_, rfl⟩
    rw [crcVal_eq_xor, hcrc]
    rfl

/-! ### PUSH of the fourth type byte -/

/-- Four letters: phase DATA (42_commands.md R134). -/
theorem exec_push_of_letters {b : Byte} {s : State} (hp : s.phase = .type) (hn : s.tcn = 3#3)
    (h : tcLetters (tcOf s.tc.b0 s.tc.b1 s.tc.b2 b) = true) :
    exec (.push b) s =
      .next { s with tc := { s.tc with b3 := b }, tcn := 4#3, crc := crcByte s.crc b, phase := .data } := by
  have hcap := captureTypeByte_of_tcn b hn
  have hl : tcLetters (captureTypeByte b s).tc = true := by rw [hcap]; exact h
  rw [exec_push_of_tcn_eq b hp hn, completeTypeCode, if_pos hl, hcap]
  rfl

/-- Not four letters: InvalidTypeCode, with the three writes kept (42_commands.md R134). -/
theorem exec_push_of_not_letters {b : Byte} {s : State} (hp : s.phase = .type) (hn : s.tcn = 3#3)
    (h : tcLetters (tcOf s.tc.b0 s.tc.b1 s.tc.b2 b) = false) :
    exec (.push b) s =
      .next { s with tc := { s.tc with b3 := b }, tcn := 4#3, crc := crcByte s.crc b, phase := .fault,
                     cause := .invalidTypeCode } := by
  have hcap := captureTypeByte_of_tcn b hn
  have hl : ¬tcLetters (captureTypeByte b s).tc = true := by rw [hcap]; exact Bool.eq_false_iff.mp h
  rw [exec_push_of_tcn_eq b hp hn, completeTypeCode, if_neg hl, hcap]
  rfl

/-- With four type bytes captured PUSH writes neither TC nor TCN, in any phase in which it answers. -/
theorem execPush_keeps_typeCode {b : Byte} {s t : State} (hn : s.tcn = 4#3) (h : execPush b s = .next t) :
    t.tc = s.tc ∧ t.tcn = s.tcn := by
  rcases execPush_cases h with ⟨-, hlt, -⟩ | ⟨-, heq, -⟩ | ⟨-, -, rfl⟩ | ⟨-, -, rfl⟩ | ⟨-, rfl⟩ | ⟨-, rfl⟩
  · exact absurd (hn ▸ hlt) (by decide)
  · exact absurd (hn ▸ heq) (by decide)
  all_goals exact ⟨rfl, rfl⟩

/-- A complete type code is written by no command but START (42_commands.md R134). -/
theorem exec_keeps_typeCode {i : Instr} {s t : State} (hn : s.tcn = 4#3) (hi : i ≠ .start) (h : exec i s = .next t) :
    t.tc = s.tc ∧ t.tcn = s.tcn := by
  cases i with
  | start => exact absurd rfl hi
  | push b => exact execPush_keeps_typeCode hn h
  | fin =>
    have hsame := execFin_sameAbsorbed h
    exact ⟨hsame.tc, hsame.tcn⟩
  | chk e =>
    have hsame := execChk_sameAbsorbed h
    exact ⟨hsame.tc, hsame.tcn⟩

/-- STATUS after the four bytes of the worked example, "RuSt" (42_commands.md R134). -/
theorem statusView_ruSt_data {s : State} (htc : s.tc = tcOf 0x52#8 0x75#8 0x53#8 0x74#8) (hn : s.tcn = 4#3)
    (hc : s.cause = .none) (hp : s.phase = .data) : statusView s = 0x00003B81#32 := by
  rw [statusView, tcOk, htc, hn, hc, hp]
  decide

/-- Settles O30: the check on the four bytes decides; after it STATUS bits 8 to 13 depend on registers that no command but
START writes. -/
theorem pushCompletesTypeCode : Obligations.PushCompletesTypeCode := by
  unfold Obligations.PushCompletesTypeCode
  refine ⟨fun b s hp hn => ⟨exec_push_of_letters hp hn, exec_push_of_not_letters hp hn⟩,
    fun s hp hn hc h0 h1 => ⟨fun h2 hcrc => ?_, fun h2 hcrc => ?_, fun h2 => ?_⟩, fun i s t hn hi h => ?_⟩
  · have htc : tcOf s.tc.b0 s.tc.b1 s.tc.b2 0x74#8 = tcOf 0x52#8 0x75#8 0x53#8 0x74#8 := by rw [h0, h1, h2]
    refine ⟨_, exec_push_of_letters hp hn (by rw [htc]; decide), rfl, rfl, ?_, rfl, ?_⟩
    · show crcByte s.crc 0x74#8 = 0x2B7BF6C3#32
      rw [hcrc]
      decide
    · exact statusView_ruSt_data htc rfl hc rfl
  · have htc : tcOf s.tc.b0 s.tc.b1 s.tc.b2 0x74#8 = tcOf 0x52#8 0x75#8 0x31#8 0x74#8 := by rw [h0, h1, h2]
    refine ⟨_, exec_push_of_not_letters hp hn (by rw [htc]; decide), rfl, rfl, ?_, rfl, rfl⟩
    show crcByte s.crc 0x74#8 = 0x7CB0FFE6#32
    rw [hcrc]
    decide
  · exact ⟨_, exec_push_of_letters hp hn (by rw [h0, h1, h2]; decide), rfl⟩
  · obtain ⟨htc, htcn⟩ := exec_keeps_typeCode hn hi h
    exact statusView_extract_flags_congr htc htcn

/-! ### PUSH of a payload byte, and after the end -/

/-- Settles O31, by `execPush_data` at each byte; STATUS reads neither CRC nor LEN. -/
theorem pushAbsorbsPayload : Obligations.PushAbsorbsPayload := by
  unfold Obligations.PushAbsorbsPayload
  refine ⟨fun b s hp hl => ⟨execPush_data b hp hl, len_succ_toNat hl, statusView_congr rfl rfl rfl rfl⟩,
    fun s hp _ hcrc hlen => ?_⟩
  have hfirst : s.len < Config.lenMax := by rw [hlen]; decide
  have hsecond : s.len + 1#32 < Config.lenMax := by rw [hlen]; decide
  have hcrc1 : crcByte s.crc 0x68#8 = 0x412F0196#32 := by rw [hcrc]; decide
  have hcrc2 : crcByte (crcByte s.crc 0x68#8) 0x69#8 = 0x2D43C08C#32 := by rw [hcrc1]; decide
  refine ⟨_, _, execPush_data _ hp hfirst, hcrc1, ?_, execPush_data _ hp hsecond, hcrc2, ?_, ?_⟩
  · show s.len + 1#32 = 1#32
    rw [hlen]
    rfl
  · show crcByte (crcByte s.crc 0x68#8) 0x69#8 ^^^ 0xFFFFFFFF#32 = 0xD2BC3F73#32
    rw [hcrc2]
    rfl
  · show s.len + 1#32 + 1#32 = 2#32
    rw [hlen]
    rfl

/-- Settles O32: refused at the bound, and absorbed one below it. -/
theorem pushRefusesPastBound : Obligations.PushRefusesPastBound := by
  unfold Obligations.PushRefusesPastBound
  refine ⟨fun b s => exec_push_of_len_eq b, fun b s hp hl => ?_⟩
  have hlt : s.len < Config.lenMax := by rw [hl]; decide
  have hpush := execPush_data b hp hlt
  rw [hl] at hpush
  exact hpush

/-- Settles O33, by `exec_of_done`: fault entry writes no register that CRCVAL, TYPE or LEN reads. -/
theorem pushAfterEnd : Obligations.PushAfterEnd := by
  unfold Obligations.PushAfterEnd
  exact fun b s hp => ⟨_, exec_of_done hp nofun, rfl, rfl, rfl, rfl⟩

/-! ### An illegal word -/

theorem acceptWord_of_illegal {w : Command} {s : State} (hw : ∃ e, decode w = .error e) (hp : s.phase ≠ .fault) :
    acceptWord w s = .next (raiseFault .illegalCommand s) := by
  obtain ⟨e, he⟩ := hw
  rw [acceptWord_error he, illegalWord_of_not_fault hp]

theorem acceptWord_of_illegal_of_fault {w : Command} {s : State} (hw : ∃ e, decode w = .error e) (hp : s.phase = .fault) :
    acceptWord w s = .next s := by
  obtain ⟨e, he⟩ := hw
  rw [acceptWord_error he, illegalWord_of_fault hp]

/-- The words of the examples: op 0, a reserved bit of PUSH, a reserved bit of FIN (42_commands.md R141). -/
theorem illegal_example_words {w : Command} (hw : w ∈ [0x000000000#36, 0x200000100#36, 0x300000001#36]) :
    ∃ e, decode w = .error e := by
  simp only [List.mem_cons, List.not_mem_nil, or_false] at hw
  rcases hw with rfl | rfl | rfl
  · exact ⟨.reservedOpcode, by decide⟩
  · exact ⟨.pushReservedBits, by decide⟩
  · exact ⟨.finReservedBits, by decide⟩

/-- Settles O36: the word raises outside FAULT, is ignored in it, and the three examples are illegal words. -/
theorem illegalWordRaises : Obligations.IllegalWordRaises := by
  unfold Obligations.IllegalWordRaises
  refine ⟨fun w s hw => ⟨fun hp => acceptWord_of_illegal hw ?_, acceptWord_of_illegal_of_fault hw⟩,
    fun s hp w hw => acceptWord_of_illegal (illegal_example_words hw) (by rw [hp]; decide)⟩
  rcases hp with hp | hp | hp <;> simp [hp]

/-! ### Idle edges -/

/-- Settles O48, by induction on the idle edges: each step consumes one and keeps the registers. -/
theorem idleChangesNothing : Obligations.IdleChangesNothing := by
  unfold Obligations.IdleChangesNothing
  intro words
  induction words with
  | nil =>
    rintro s rest (rfl : s.pending = rest)
    rfl
  | cons w words ih =>
    intro s rest hs
    have hstep := (step_cons hs).trans (clockEdge_idle rfl rfl _)
    exact (run_succ hstep words.length).trans (ih _ rest rfl)

end Sys2Proof.Machine
end

section
/-! PROOFS. Fault entry, the causes, and phase FAULT with its two ways out (60_exceptions.md R161 to R174; O38 to O41). -/

namespace Sys2Proof.Machine

open Sys2Proof.Safety Sys2Proof.Claims

/-! ### The conditions of the causes -/

/-- The condition under which a word accepted outside phase FAULT raises the cause (60_exceptions.md R161, R164, R168, R169).
No word raises None. -/
def RaiseCondition (w : Command) (s : State) : Cause → Prop
  | .none => False
  | .invalidTypeCode =>
    ∃ b, decode w = .ok (.push b) ∧ s.phase = .type ∧ s.tcn = 3#3 ∧ tcLetters (tcOf s.tc.b0 s.tc.b1 s.tc.b2 b) = false
  | .invalidChunkLength => ∃ b, decode w = .ok (.push b) ∧ s.phase = .data ∧ s.len = Config.lenMax
  | .invalidCrc => ∃ e, decode w = .ok (.chk e) ∧ s.phase = .data ∧ crcVal s ≠ e
  | .truncatedInput => (decode w = .ok .fin ∨ ∃ e, decode w = .ok (.chk e)) ∧ s.phase = .type
  | .illegalCommand => ∃ e, decode w = .error e
  | .illegalSequence =>
    ((∃ b, decode w = .ok (.push b)) ∨ decode w = .ok .fin ∨ ∃ e, decode w = .ok (.chk e)) ∧ s.phase = .done

/-- Where PUSH enters FAULT its cause's condition holds (42_commands.md R134, R137, R138). -/
theorem raiseCondition_of_execPush {w : Command} {b : Byte} {s t : State} (hw : decode w = .ok (.push b))
    (hp : s.phase ≠ .fault) (h : execPush b s = .next t) (ht : t.phase = .fault) : RaiseCondition w s t.cause := by
  rcases execPush_cases h with ⟨-, -, rfl⟩ | ⟨hs, hn, rfl⟩ | ⟨-, -, rfl⟩ | ⟨hs, hl, rfl⟩ | ⟨hs, rfl⟩ | ⟨hs, -⟩
  · exact absurd ht hp
  · rcases completeTypeCode_cases b s with ⟨-, heq⟩ | ⟨hletters, heq⟩
    · rw [heq] at ht
      cases ht
    · rw [hn] at hletters
      rw [heq]
      exact ⟨b, hw, hs, hn, hletters⟩
  · exact absurd ht hp
  · exact ⟨b, hw, hs, hl⟩
  · exact ⟨.inl ⟨b, hw⟩, hs⟩
  · exact absurd hs hp

/-- Where FIN enters FAULT its cause's condition holds (42_commands.md R139). -/
theorem raiseCondition_of_execFin {w : Command} {s t : State} (hw : decode w = .ok .fin)
    (hp : s.phase ≠ .fault) (h : execFin s = .next t) (ht : t.phase = .fault) : RaiseCondition w s t.cause := by
  rcases execFin_cases h with ⟨hs, rfl⟩ | ⟨-, rfl⟩ | ⟨hs, rfl⟩ | ⟨hs, -⟩
  · exact ⟨.inl hw, hs⟩
  · cases ht
  · exact ⟨.inr (.inl hw), hs⟩
  · exact absurd hs hp

/-- Where CHK enters FAULT its cause's condition holds (42_commands.md R140). -/
theorem raiseCondition_of_execChk {w : Command} {e : Word32} {s t : State} (hw : decode w = .ok (.chk e))
    (hp : s.phase ≠ .fault) (h : execChk e s = .next t) (ht : t.phase = .fault) : RaiseCondition w s t.cause := by
  rcases execChk_cases h with ⟨hs, rfl⟩ | ⟨-, -, rfl⟩ | ⟨hs, hne, rfl⟩ | ⟨hs, rfl⟩ | ⟨hs, -⟩
  · exact ⟨.inr ⟨e, hw⟩, hs⟩
  · cases ht
  · exact ⟨e, hw, hs, hne⟩
  · exact ⟨.inr (.inr ⟨e, hw⟩), hs⟩
  · exact absurd hs hp

/-- An accepted word enters FAULT only under the condition of the cause it leaves. -/
theorem raiseCondition_of_acceptWord {w : Command} {s t : State} (hp : s.phase ≠ .fault) (h : acceptWord w s = .next t)
    (ht : t.phase = .fault) : RaiseCondition w s t.cause := by
  rcases acceptWord_cases h with ⟨i, hi, hexec⟩ | ⟨e, he, rfl⟩
  · cases i with
    | start =>
      obtain rfl := Host.Outcome.next.inj ((exec_start s).symm.trans hexec)
      cases ht
    | push b => exact raiseCondition_of_execPush hi hp hexec ht
    | fin => exact raiseCondition_of_execFin hi hp hexec ht
    | chk e => exact raiseCondition_of_execChk hi hp hexec ht
  · rw [illegalWord_of_not_fault hp]
    exact ⟨e, he⟩

/-- InvalidTypeCode is raised with the three writes of the fourth type byte kept (42_commands.md R134). -/
theorem acceptWord_of_not_letters {w : Command} {b : Byte} {s : State} (hw : decode w = .ok (.push b))
    (hs : s.phase = .type) (hn : s.tcn = 3#3) (hl : tcLetters (tcOf s.tc.b0 s.tc.b1 s.tc.b2 b) = false) :
    acceptWord w s =
      .next { s with tc := { s.tc with b3 := b }, tcn := 4#3, crc := crcByte s.crc b, phase := .fault,
                     cause := .invalidTypeCode } :=
  (acceptWord_ok hw s).trans (exec_push_of_not_letters hs hn hl)

/-- Under the condition of any other cause the word enters FAULT and writes PHASE and CAUSE alone (60_exceptions.md R165). -/
theorem acceptWord_of_raiseCondition {w : Command} {s : State} {c : Cause} (hp : s.phase ≠ .fault)
    (hc : c ≠ .invalidTypeCode) (h : RaiseCondition w s c) : acceptWord w s = .next (raiseFault c s) := by
  cases c with
  | none => exact h.elim
  | invalidTypeCode => exact absurd rfl hc
  | invalidChunkLength =>
    obtain ⟨b, hw, hs, hl⟩ := h
    exact (acceptWord_ok hw s).trans (exec_push_of_len_eq b hs hl)
  | invalidCrc =>
    obtain ⟨e, hw, hs, hne⟩ := h
    exact (acceptWord_ok hw s).trans (exec_chk_of_crcVal_ne hs hne)
  | truncatedInput =>
    obtain ⟨hw | ⟨e, hw⟩, hs⟩ := h
    · exact (acceptWord_ok hw s).trans (exec_fin_of_type hs)
    · exact (acceptWord_ok hw s).trans (exec_chk_of_type e hs)
  | illegalCommand => exact acceptWord_of_illegal h hp
  | illegalSequence =>
    obtain ⟨⟨b, hw⟩ | hw | ⟨e, hw⟩, hs⟩ := h <;> exact (acceptWord_ok hw s).trans (exec_of_done hs nofun)

/-- Outside phase FAULT a word leaves FAULT with a cause exactly under the cause's condition. -/
theorem acceptWord_raises_iff {w : Command} {s t : State} (hp : s.phase ≠ .fault) (h : acceptWord w s = .next t) (c : Cause) :
    t.phase = .fault ∧ t.cause = c ↔ RaiseCondition w s c := by
  refine ⟨fun ⟨ht, hc⟩ => hc ▸ raiseCondition_of_acceptWord hp h ht, fun hraise => ?_⟩
  by_cases hc : c = .invalidTypeCode
  · subst hc
    obtain ⟨b, hw, hs, hn, hl⟩ := hraise
    obtain rfl := Host.Outcome.next.inj ((acceptWord_of_not_letters hw hs hn hl).symm.trans h)
    exact ⟨rfl, rfl⟩
  · obtain rfl := Host.Outcome.next.inj ((acceptWord_of_raiseCondition hp hc hraise).symm.trans h)
    exact ⟨rfl, rfl⟩

/-! ### Phase FAULT -/

/-- In phase FAULT every accepted word but START, legal or illegal, leaves the state (60_exceptions.md R167). -/
theorem acceptWord_of_fault {w : Command} {s : State} (hp : s.phase = .fault) (hw : NotStart w) :
    acceptWord w s = .next s := by
  cases hd : decode w with
  | ok i => exact (acceptWord_ok hd s).trans (exec_of_fault hp fun hi => hw (hi ▸ hd))
  | error e => exact acceptWord_of_illegal_of_fault ⟨e, hd⟩ hp

/-- Settles O38: the condition of the cause, which is no condition for None, says what the word writes. -/
theorem faultEntryWrites : Obligations.FaultEntryWrites := by
  unfold Obligations.FaultEntryWrites
  intro w s t hp h ht
  have hraise : RaiseCondition w s t.cause := raiseCondition_of_acceptWord hp h ht
  refine ⟨fun hnone => ?_, ?_, (faultWire_iff t).mpr ht, fun w' => acceptWord_of_fault ht⟩
  · rw [hnone] at hraise
    exact hraise
  · by_cases hc : t.cause = .invalidTypeCode
    · rw [hc] at hraise
      obtain ⟨b, hw, hs, hn, hl⟩ := hraise
      exact .inr ⟨b, hw, hs, hn, Host.Outcome.next.inj (h.symm.trans (acceptWord_of_not_letters hw hs hn hl))⟩
    · exact .inl ⟨hc, Host.Outcome.next.inj (h.symm.trans (acceptWord_of_raiseCondition hp hc hraise))⟩

/-- Settles O39, by `acceptWord_raises_iff` at each cause. -/
theorem causesRaisedExactlyWhen : Obligations.CausesRaisedExactlyWhen := by
  unfold Obligations.CausesRaisedExactlyWhen
  intro w s t hp h
  have raises := acceptWord_raises_iff hp h
  exact ⟨raises .invalidTypeCode, raises .invalidChunkLength, raises .invalidCrc, raises .truncatedInput,
    raises .illegalCommand, raises .illegalSequence⟩

/-- No view reads the input still to come (10_state.md R30). -/
theorem rdata_congr {s t : State} (h : SameRegisters s t) (rsel : BitVec 2) : rdata rsel s = rdata rsel t := by
  obtain ⟨S, pending⟩ := s
  obtain rfl : S = t.toRegisters := h
  rfl

/-- Settles O40, by `acceptWord_of_fault`; the step only consumes the edge. -/
theorem faultIgnoresAllButStart : Obligations.FaultIgnoresAllButStart := by
  unfold Obligations.FaultIgnoresAllButStart
  intro w s hp hw
  refine ⟨acceptWord_of_fault hp hw, ?_⟩
  rintro p rest hpend hrst hvalid rfl
  have hstep : step s = .next { s with pending := rest } :=
    (step_cons hpend).trans ((clockEdge_cmd hrst hvalid _).trans (acceptWord_of_fault hp hw))
  exact ⟨_, hstep, rfl, rdata_congr rfl⟩

/-! ### The ways out of FAULT -/

/-- START has one word (30_encoding.md R71, R75). -/
theorem decode_eq_start_iff {w : Command} : decode w = .ok .start ↔ w = 0x100000000#36 := by
  constructor
  · intro h
    obtain ⟨hop, harg⟩ := hasFieldsOf_of_decode h
    rw [← wordOf_fields w, hop, harg]
    rfl
  · rintro rfl
    decide

/-- The edge is a reset edge or presents the START word (60_exceptions.md R174). -/
def ResetsOrStarts (p : PortSample) : Prop := p.rst = true ∨ p.cmdValid = true ∧ p.cmd = 0x100000000#36

/-- Reset and START leave the same state, from any state (10_state.md R36). -/
theorem step_of_resetsOrStarts {s : State} {p : PortSample} {rest : List PortSample} (hpend : s.pending = p :: rest)
    (h : ResetsOrStarts p) : step s = .next (startState rest) := by
  rw [step_cons hpend]
  cases hrst : p.rst with
  | true => exact clockEdge_reset hrst _
  | false =>
    obtain ⟨hvalid, hcmd⟩ : p.cmdValid = true ∧ p.cmd = 0x100000000#36 := h.resolve_left (by simp [hrst])
    rw [clockEdge_cmd hrst hvalid, acceptWord_ok (decode_eq_start_iff.mpr hcmd), exec_start]

/-- In phase FAULT a step that neither resets nor starts keeps every register (60_exceptions.md R167, R174). -/
theorem step_of_fault {s t : State} (hp : s.phase = .fault) (h : step s = .next t) :
    (∃ p rest, s.pending = p :: rest ∧ ResetsOrStarts p ∧ t = startState rest) ∨ SameRegisters t s := by
  rcases step_cases h with ⟨-, rfl⟩ | ⟨p, rest, hpend, hedge⟩
  · exact .inr rfl
  by_cases hleave : ResetsOrStarts p
  · exact .inl ⟨p, rest, hpend, hleave, Host.Outcome.next.inj (h.symm.trans (step_of_resetsOrStarts hpend hleave))⟩
  right
  have hp' : ({ s with pending := rest } : State).phase = .fault := hp
  rcases hedge with ⟨hrst, -⟩ | ⟨-, -, rfl⟩ | ⟨-, hvalid, i, hi, hexec⟩ | ⟨-, -, e, -, rfl⟩
  · exact absurd (.inl hrst) hleave
  · rfl
  · have hne : i ≠ .start := fun his => hleave (.inr ⟨hvalid, decode_eq_start_iff.mp (his ▸ hi)⟩)
    obtain rfl := Host.Outcome.next.inj ((exec_of_fault hp' hne).symm.trans hexec)
    rfl
  · rw [illegalWord_of_fault hp']
    rfl

/-- Settles O41, by `step_of_fault`: START and reset leave phase TYPE, every other step keeps PHASE. -/
theorem faultLeftOnlyByStartOrReset : Obligations.FaultLeftOnlyByStartOrReset := by
  unfold Obligations.FaultLeftOnlyByStartOrReset
  refine ⟨fun s t hp h ht => ?_, fun s t hp h ht => ?_, fun s p rest _ => step_of_resetsOrStarts⟩
  · refine (step_of_fault hp h).resolve_right fun hsame => ht ?_
    exact (congrArg Registers.phase hsame).trans hp
  · refine (step_of_fault hp h).resolve_left ?_
    rintro ⟨p, rest, -, -, rfl⟩
    cases ht

end Sys2Proof.Machine
end

section
/-! PROOFS. Reset: its priority, and the views after it (70_reset_and_hazards.md R191, R192; O47). -/

namespace Sys2Proof.Machine

open Sys2Proof.Safety Sys2Proof.Claims

/-- A reset edge decides the step by itself: neither the registers before it nor the other ports have a part in the answer
(70_reset_and_hazards.md R191). -/
theorem step_of_rst {s : State} {p : PortSample} {rest : List PortSample} (hpend : s.pending = p :: rest)
    (hrst : p.rst = true) : step s = .next (startState rest) :=
  step_of_resetsOrStarts hpend (.inl hrst)

theorem startState_sameRegisters_reset (rest : List PortSample) : SameRegisters (startState rest) State.reset := rfl

theorem rdata_startState (rsel : BitVec 2) (rest : List PortSample) :
    rdata rsel (startState rest) = rdata rsel State.reset :=
  rdata_congr (startState_sameRegisters_reset rest) rsel

theorem exec_start_startState (rest : List PortSample) : exec .start (startState rest) = .next (startState rest) :=
  exec_start (startState rest)

/-- Settles O47: the step by `step_of_rst`; the views are those of `State.reset` (`resetState`), since none reads the input
still to come. -/
theorem resetHasPriority : Obligations.ResetHasPriority := by
  unfold Obligations.ResetHasPriority
  obtain ⟨-, -, -, -, -, -, hcrcVal, htype, hlen, hstatus, -⟩ := resetState
  refine ⟨fun s v w rest hpend => step_of_rst hpend rfl, fun rest => ?_⟩
  simp only [rdata_startState]
  exact ⟨hcrcVal, htype, hlen, hstatus, rfl, rfl, exec_start_startState rest, startState_sameRegisters_reset rest⟩

end Sys2Proof.Machine
end

section
/-! PROOFS. Decoder and encoder, the illegal words by case, and how many words are commands (30_encoding.md R70 to R78; O1,
O2, O5, O6). -/

namespace Sys2Proof

open Sys2Proof.Claims

/-! ### Decoder and encoder -/

theorem hasFieldsOf_encode (i : Instr) : HasFieldsOf (encode i) i := by
  cases i with
  | start => exact ⟨opField_wordOf .., argField_wordOf ..⟩
  | push b =>
    refine ⟨opField_wordOf .., ?_, ?_⟩
    · rw [reservedB_eq, encode, argField_wordOf]
      exact BitVec.extractLsb'_append_eq_left
    · rw [byteField_eq, encode, argField_wordOf]
      exact BitVec.extractLsb'_append_eq_right
  | fin => exact ⟨opField_wordOf .., argField_wordOf ..⟩
  | chk e => exact ⟨opField_wordOf .., argField_wordOf ..⟩

/-- Every command decodes from its own word. -/
@[simp] theorem decode_encode (i : Instr) : decode (encode i) = .ok i := decode_eq_ok_iff.mpr (hasFieldsOf_encode i)

/-- The fields of a command leave no bit of its word open (30_encoding.md R70 to R73). -/
theorem encode_of_hasFieldsOf {w : Command} {i : Instr} (h : HasFieldsOf w i) : encode i = w := by
  rw [← wordOf_fields w]
  cases i with
  | start =>
    obtain ⟨hop, harg⟩ := h
    rw [hop, harg, encode]
  | push b =>
    obtain ⟨hop, hres, rfl⟩ := h
    rw [hop, ← reservedB_append_byteField, hres, encode]
  | fin =>
    obtain ⟨hop, harg⟩ := h
    rw [hop, harg, encode]
  | chk e =>
    obtain ⟨hop, rfl⟩ := h
    rw [hop, encode]

theorem encode_of_decode {w : Command} {i : Instr} (h : decode w = .ok i) : encode i = w :=
  encode_of_hasFieldsOf (decode_eq_ok_iff.mp h)

/-- The operand types have the widths of the fields (30_encoding.md R72 to R74). -/
theorem wellFormed_eq_true (i : Instr) : wellFormed i = true := by
  cases i with
  | start => rfl
  | push b => exact decide_eq_true (Nat.le_of_lt_succ b.isLt)
  | fin => rfl
  | chk e => exact decide_eq_true (Nat.le_of_lt_succ e.isLt)

/-- Settles O2: a word decodes to a command exactly when it has the command's fields, which the command's own word has and no
other. -/
theorem decodeEncodeAgree : Obligations.DecodeEncodeAgree := by
  unfold Obligations.DecodeEncodeAgree
  exact ⟨fun i _ => decode_encode i, fun _ i h => ⟨wellFormed_eq_true i, encode_of_decode h⟩⟩

/-- Settles O1: the ten words evaluated. -/
theorem decodesSpecWords : Obligations.DecodesSpecWords := by
  unfold Obligations.DecodesSpecWords
  decide

/-! ### The illegal words -/

/-- The fields of a word that is refused under a name (30_encoding.md R78). -/
def HasFieldsOfIllegal (w : Command) : IllegalWord → Prop
  | .reservedOpcode => opField w ≠ 0x1#4 ∧ opField w ≠ 0x2#4 ∧ opField w ≠ 0x3#4 ∧ opField w ≠ 0x4#4
  | .startReservedBits => opField w = 0x1#4 ∧ argField w ≠ 0#32
  | .pushReservedBits => opField w = 0x2#4 ∧ reservedB w ≠ 0#24
  | .finReservedBits => opField w = 0x3#4 ∧ argField w ≠ 0#32

theorem decode_of_hasFieldsOfIllegal {w : Command} {e : IllegalWord} (h : HasFieldsOfIllegal w e) : decode w = .error e := by
  cases e with
  | reservedOpcode =>
    obtain ⟨h1, h2, h3, h4⟩ := h
    simp [decode, h1, h2, h3, h4]
  | startReservedBits =>
    obtain ⟨hop, harg⟩ := h
    simp [decode, hop, harg]
  | pushReservedBits =>
    obtain ⟨hop, hres⟩ := h
    simp [decode, hop, hres]
  | finReservedBits =>
    obtain ⟨hop, harg⟩ := h
    simp [decode, hop, harg]

theorem hasFieldsOfIllegal_of_decode {w : Command} {e : IllegalWord} (h : decode w = .error e) : HasFieldsOfIllegal w e := by
  unfold decode at h
  split_ifs at h with h1 harg h2 hres h3 harg h4 <;> obtain rfl := Except.error.inj h
  · exact ⟨h1, harg⟩
  · exact ⟨h2, hres⟩
  · exact ⟨h3, harg⟩
  · exact ⟨h1, h2, h3, h4⟩

/-- A word is refused under a name exactly when it has the fields of that case (30_encoding.md R77, R78). -/
theorem decode_eq_error_iff {w : Command} {e : IllegalWord} : decode w = .error e ↔ HasFieldsOfIllegal w e :=
  ⟨hasFieldsOfIllegal_of_decode, decode_of_hasFieldsOfIllegal⟩

/-- The opcodes beside those of the four commands (30_encoding.md R78). -/
theorem hasFieldsOfIllegal_reservedOpcode_iff {w : Command} :
    HasFieldsOfIllegal w .reservedOpcode ↔ opNat w = 0 ∨ 5 ≤ opNat w := by
  simp only [HasFieldsOfIllegal, Ne, opField_eq_iff, BitVec.toNat_ofNat]
  omega

theorem wellFormedWord_iff {w : Command} : wellFormedWord w = true ↔ ∃ i, decode w = .ok i := by
  obtain ⟨hstart, hpush, hfin, hchk, -⟩ := opcodeMapSelects w
  have hrows : wellFormedWord w = true ↔ w &&& 0xFFFFFFFFF#36 = 0x100000000#36 ∨ w &&& 0xFFFFFFF00#36 = 0x200000000#36 ∨
      w &&& 0xFFFFFFFFF#36 = 0x300000000#36 ∨ w &&& 0xF00000000#36 = 0x400000000#36 := by
    simp [wellFormedWord, opcodeRows, rowSelects, rowStart, rowPush, rowFin, rowChk]
  rw [hrows, ← hstart, ← hpush, ← hfin, ← hchk]
  constructor
  · rintro (h | ⟨b, h⟩ | h | ⟨e, h⟩) <;> exact ⟨_, h⟩
  · rintro ⟨i, h⟩
    cases i with
    | start => exact .inl h
    | push b => exact .inr (.inl ⟨b, h⟩)
    | fin => exact .inr (.inr (.inl h))
    | chk e => exact .inr (.inr (.inr ⟨e, h⟩))

/-- A word is illegal exactly when no row of the opcode map selects it (30_encoding.md R75, R78). -/
theorem decode_error_iff_wellFormedWord {w : Command} : (∃ e, decode w = .error e) ↔ wellFormedWord w = false := by
  rw [← Bool.not_eq_true, wellFormedWord_iff]
  cases decode w <;> simp

/-- Settles O5, from the fields of `decode_eq_error_iff` as numbers. -/
theorem illegalWordsByCase : Obligations.IllegalWordsByCase := by
  unfold Obligations.IllegalWordsByCase
  exact fun w => ⟨decode_eq_error_iff.trans hasFieldsOfIllegal_reservedOpcode_iff,
    decode_eq_error_iff.trans (and_congr opField_eq_iff (not_congr argField_eq_zero_iff)),
    decode_eq_error_iff.trans (and_congr opField_eq_iff (not_congr reservedB_eq_zero_iff)),
    decode_eq_error_iff.trans (and_congr opField_eq_iff (not_congr argField_eq_zero_iff)),
    decode_error_iff_wellFormedWord⟩

/-! ### The number of commands -/

/-- The words that decode to a command are the commands, one word each. -/
def legalWordEquiv : { w : Command // ∃ i, decode w = .ok i } ≃ Instr where
  toFun w := (decode w.1).toOption.getD .start
  invFun i := ⟨encode i, i, decode_encode i⟩
  left_inv := by
    rintro ⟨w, i, h⟩
    simp [h, encode_of_decode h, Except.toOption]
  right_inv i := by simp [Except.toOption]

/-- A command is its row of the opcode map and its operand. -/
def instrEquiv : Instr ≃ (Unit ⊕ Byte) ⊕ (Unit ⊕ Word32) where
  toFun
    | .start => .inl (.inl ())
    | .push b => .inl (.inr b)
    | .fin => .inr (.inl ())
    | .chk e => .inr (.inr e)
  invFun
    | .inl (.inl _) => .start
    | .inl (.inr b) => .push b
    | .inr (.inl _) => .fin
    | .inr (.inr e) => .chk e
  left_inv i := by cases i <;> rfl
  right_inv x := by rcases x with (_ | _) | (_ | _) <;> rfl

theorem natCard_bitVec (n : Nat) : Nat.card (BitVec n) = 2 ^ n := by
  rw [Nat.card_congr BitVec.equivFin.toEquiv, Nat.card_fin]

theorem natCard_instr : Nat.card Instr = (1 + 2 ^ 8) + (1 + 2 ^ 32) := by
  rw [Nat.card_congr instrEquiv, Nat.card_sum, Nat.card_sum, Nat.card_sum, Nat.card_unique, natCard_bitVec, natCard_bitVec]

/-- Settles O6: the words counted are the commands of `legalWordEquiv`, counted row by row. -/
theorem legalWordCount : Obligations.LegalWordCount := by
  unfold Obligations.LegalWordCount
  exact (Nat.card_congr legalWordEquiv).trans natCard_instr

end Sys2Proof
end

section
/-! PROOFS. The invariants: at reset, kept by every step, and what they give: every step answers (10_state.md R26,
70_reset_and_hazards.md R206; O22, O37, O49 to O51). -/

namespace Sys2Proof.Safety

open Sys2Proof.Machine Sys2Proof.Claims

/-! ### The invariants of the record, and of PHASE and CAUSE -/

/-- The invariants of 10_state.md R26 that speak of what has been absorbed alone, CRC, TC, TCN and LEN: 1, 6, 7 and 8. -/
structure RecordInv (s : State) : Prop where
  bounds : s.tcn ≤ 4#3 ∧ s.len ≤ Config.lenMax
  uncaptured : ∀ i : Nat, i < 4 → s.tcn.toNat ≤ i → tcGet s.tc i = 0x00#8
  covers : ∃ P : List Byte, CrcCovers s P
  payload : 0#32 < s.len → s.tcn = 4#3

/-- What the record satisfies in phase FAULT under each cause (invariants 9 to 11 of 10_state.md R26, and log entry 12). -/
def CauseLeaves (s : State) : Cause → Prop
  | .none => False
  | .invalidTypeCode => s.tcn = 4#3 ∧ tcLetters s.tc = false ∧ s.len = 0#32
  | .invalidChunkLength => s.len = Config.lenMax ∧ TypeCodeComplete s
  | .invalidCrc => TypeCodeComplete s
  | .truncatedInput => s.tcn < 4#3
  | .illegalCommand => True
  | .illegalSequence => TypeCodeComplete s

theorem BlockInv.recordInv {s : State} (h : BlockInv s) : RecordInv s := ⟨h.i1, h.i6, h.i7, h.i8⟩

theorem RecordInv.of_sameAbsorbed {s t : State} (h : RecordInv s) (hsame : SameAbsorbed s t) : RecordInv t := by
  obtain ⟨P, hP⟩ := h.covers
  constructor
  · rw [hsame.tcn, hsame.len]
    exact h.bounds
  · rw [hsame.tc, hsame.tcn]
    exact h.uncaptured
  · exact ⟨P, hsame.crcCovers hP⟩
  · rw [hsame.len, hsame.tcn]
    exact h.payload

theorem RecordInv.blockInv_of_type {s : State} (h : RecordInv s) (hp : s.phase = .type) (hn : s.tcn < 4#3)
    (hl : s.len = 0#32) (hc : s.cause = .none) : BlockInv s where
  i1 := h.bounds
  i2 _ := ⟨hn, hl, hc⟩
  i3 hd := by simp [hp] at hd
  i4 hd := by simp [hp] at hd
  i5 := by simp [hp]
  i6 := h.uncaptured
  i7 := h.covers
  i8 := h.payload
  i9 := by simp [hc]
  i10 := by simp [hc]
  i11 := by simp [hc]
  i12 := by simp [hc]

theorem RecordInv.blockInv_of_complete {s : State} (h : RecordInv s) (hp : s.phase = .data ∨ s.phase = .done)
    (ht : TypeCodeComplete s) (hc : s.cause = .none) : BlockInv s where
  i1 := h.bounds
  i2 hd := by simp [hd] at hp
  i3 _ := ⟨ht, h.bounds.2, hc⟩
  i4 _ := ⟨ht, h.bounds.2, hc⟩
  i5 := by rcases hp with hp | hp <;> simp [hp]
  i6 := h.uncaptured
  i7 := h.covers
  i8 := h.payload
  i9 := by simp [hc]
  i10 := by simp [hc]
  i11 := by simp [hc]
  i12 := by simp [hc]

theorem causeCode_range {c : Cause} (h : c ≠ .none) : 1#3 ≤ causeCode c ∧ causeCode c ≤ 6#3 := by
  revert h
  cases c <;> decide

theorem RecordInv.blockInv_of_fault {s : State} (h : RecordInv s) (hp : s.phase = .fault) (hc : CauseLeaves s s.cause) :
    BlockInv s where
  i1 := h.bounds
  i2 hd := by simp [hp] at hd
  i3 hd := by simp [hp] at hd
  i4 hd := by simp [hp] at hd
  i5 := by
    have hne : s.cause ≠ .none := fun hnone => by simp [hnone, CauseLeaves] at hc
    exact ⟨fun _ => causeCode_range hne, fun hnone => absurd hnone hne⟩
  i6 := h.uncaptured
  i7 := h.covers
  i8 := h.payload
  i9 hcause := by rwa [hcause] at hc
  i10 hcause := by rwa [hcause] at hc
  i11 hcause := by
    rw [hcause] at hc
    obtain ⟨hl, hn, -⟩ := hc
    exact ⟨hl, hn⟩
  i12 hcause := by
    rcases hcause with hcause | hcause | hcause <;> rw [hcause] at hc
    · exact hc.2
    · exact hc
    · exact hc

/-! ### What each operation keeps -/

/-- The invariants speak of the registers alone, not of the input to come. -/
theorem BlockInv.withPending {s : State} (h : BlockInv s) (rest : List PortSample) : BlockInv { s with pending := rest } :=
  ⟨h.i1, h.i2, h.i3, h.i4, h.i5, h.i6, h.i7, h.i8, h.i9, h.i10, h.i11, h.i12⟩

theorem blockInv_startState (rest : List PortSample) : BlockInv (startState rest) := by
  have hbounds : 0#3 ≤ 4#3 ∧ 0#32 ≤ Config.lenMax := by decide
  refine RecordInv.blockInv_of_type ⟨hbounds, fun i hi _ => ?_, ⟨[], rfl, rfl⟩, ?_⟩ rfl (by decide : 0#3 < 4#3) rfl rfl
  · interval_cases i <;> rfl
  · exact fun h => absurd h (by decide : ¬0#32 < 0#32)

/-- Fault entry keeps the invariants where the cause's condition on the record holds (60_exceptions.md R165). -/
theorem RecordInv.blockInv_raiseFault {s : State} {c : Cause} (h : RecordInv s) (hc : CauseLeaves s c) :
    BlockInv (raiseFault c s) := by
  refine (h.of_sameAbsorbed (sameAbsorbed_raiseFault c s)).blockInv_of_fault rfl ?_
  cases c <;> exact hc

theorem BlockInv.finishComputation {s : State} (h : BlockInv s) (hp : s.phase = .data) :
    BlockInv (finishComputation s) := by
  obtain ⟨ht, -, hc⟩ := h.i3 hp
  exact (h.recordInv.of_sameAbsorbed (sameAbsorbed_finishComputation s)).blockInv_of_complete (.inr rfl) ht hc

theorem tcGet_tcSet_of_ne (t : TypeCode) {n i : Nat} (b : Byte) (hi : i < 4) (h : n ≠ i) :
    tcGet (tcSet t n b) i = tcGet t i := by
  rcases t with ⟨b0, b1, b2, b3⟩
  interval_cases i <;> rcases n with _ | _ | _ | _ | n <;> simp [tcGet, tcSet] at h ⊢

/-- A captured byte keeps the record's invariants, while fewer than four bytes are captured and none is absorbed. -/
theorem RecordInv.captureTypeByte {s : State} (b : Byte) (h : RecordInv s) (hn : s.tcn ≤ 3#3) (hl : s.len = 0#32) :
    RecordInv (captureTypeByte b s) := by
  have hsucc : (s.tcn + 1#3).toNat = s.tcn.toNat + 1 := by bv_omega
  constructor
  · refine ⟨?_, h.bounds.2⟩
    rw [captureTypeByte_tcn]
    bv_omega
  · intro i hi hle
    rw [captureTypeByte_tcn, hsucc] at hle
    rw [captureTypeByte_tc, tcGet_tcSet_of_ne s.tc b hi (by omega)]
    exact h.uncaptured i hi (by omega)
  · obtain ⟨P, hP⟩ := h.covers
    obtain rfl : P = [] := List.length_eq_zero_iff.mp (by rw [hP.length_eq, hl]; rfl)
    exact ⟨[], hP.captureTypeByte b hn⟩
  · intro hpos
    rw [captureTypeByte_len, hl] at hpos
    exact absurd hpos (by decide)

/-- The fourth type byte: DATA with a complete type code, or the fault with what its cause leaves (42_commands.md R134). -/
theorem BlockInv.completeTypeCode {s : State} (b : Byte) (h : BlockInv s) (hp : s.phase = .type) (hn : s.tcn = 3#3) :
    BlockInv (completeTypeCode b s) := by
  obtain ⟨-, hl, hc⟩ := h.i2 hp
  have hrec : RecordInv (captureTypeByte b s) := h.recordInv.captureTypeByte b (by bv_omega) hl
  have htcn : (captureTypeByte b s).tcn = 4#3 := by rw [captureTypeByte_tcn, hn]; rfl
  rcases completeTypeCode_cases b s with ⟨hletters, heq⟩ | ⟨hletters, heq⟩
  · have hrec' := hrec.of_sameAbsorbed (sameAbsorbed_completeTypeCode b s)
    rw [heq] at hrec' ⊢
    exact hrec'.blockInv_of_complete (.inl rfl) ⟨htcn, hletters⟩ hc
  · rw [heq]
    exact hrec.blockInv_raiseFault ⟨htcn, hletters, hl⟩

/-- A payload byte below the bound (42_commands.md R136). -/
theorem BlockInv.absorb {s : State} (b : Byte) (h : BlockInv s) (hp : s.phase = .data) (hl : s.len < Config.lenMax) :
    BlockInv { s with crc := crcByte s.crc b, len := s.len + 1#32 } := by
  obtain ⟨ht, -, hc⟩ := h.i3 hp
  obtain ⟨P, hP⟩ := h.i7
  have hle : s.len + 1#32 ≤ Config.lenMax := by
    have hsucc := len_succ_toNat hl
    bv_omega
  exact RecordInv.blockInv_of_complete ⟨⟨h.i1.1, hle⟩, h.i6, ⟨_, hP.absorb b hl⟩, fun _ => ht.1⟩ (.inl hp) ht hc

/-- A command out of sequence finds the complete type code of phase DONE. -/
theorem BlockInv.raise_illegalSequence {s : State} (h : BlockInv s) (hp : s.phase = .done) :
    BlockInv (raiseFault .illegalSequence s) :=
  h.recordInv.blockInv_raiseFault (h.typeCodeComplete (.inr hp))

theorem BlockInv.raise_truncatedInput {s : State} (h : BlockInv s) (hp : s.phase = .type) :
    BlockInv (raiseFault .truncatedInput s) := by
  obtain ⟨hn, -, -⟩ := h.i2 hp
  exact h.recordInv.blockInv_raiseFault hn

theorem BlockInv.illegalWord {s : State} (h : BlockInv s) : BlockInv (illegalWord s) := by
  by_cases hp : s.phase = .fault
  · rwa [illegalWord_of_fault hp]
  · rw [illegalWord_of_not_fault hp]
    exact h.recordInv.blockInv_raiseFault trivial

/-! ### What each command keeps -/

theorem BlockInv.execPush {b : Byte} {s t : State} (h : BlockInv s) (ht : execPush b s = .next t) : BlockInv t := by
  rcases execPush_cases ht with ⟨hp, hn, rfl⟩ | ⟨hp, hn, rfl⟩ | ⟨hp, hl, rfl⟩ | ⟨hp, hl, rfl⟩ | ⟨hp, rfl⟩ | ⟨-, rfl⟩
  · obtain ⟨-, hl, hc⟩ := h.i2 hp
    refine (h.recordInv.captureTypeByte b (by bv_omega) hl).blockInv_of_type hp ?_ hl hc
    rw [captureTypeByte_tcn]
    bv_omega
  · exact h.completeTypeCode b hp hn
  · exact h.absorb b hp hl
  · exact h.recordInv.blockInv_raiseFault ⟨hl, h.typeCodeComplete (.inl hp)⟩
  · exact h.raise_illegalSequence hp
  · exact h

theorem BlockInv.execFin {s t : State} (h : BlockInv s) (ht : execFin s = .next t) : BlockInv t := by
  rcases execFin_cases ht with ⟨hp, rfl⟩ | ⟨hp, rfl⟩ | ⟨hp, rfl⟩ | ⟨-, rfl⟩
  · exact h.raise_truncatedInput hp
  · exact h.finishComputation hp
  · exact h.raise_illegalSequence hp
  · exact h

theorem BlockInv.execChk {e : Word32} {s t : State} (h : BlockInv s) (ht : execChk e s = .next t) : BlockInv t := by
  rcases execChk_cases ht with ⟨hp, rfl⟩ | ⟨hp, -, rfl⟩ | ⟨hp, -, rfl⟩ | ⟨hp, rfl⟩ | ⟨-, rfl⟩
  · exact h.raise_truncatedInput hp
  · exact h.finishComputation hp
  · exact h.recordInv.blockInv_raiseFault (h.typeCodeComplete (.inl hp))
  · exact h.raise_illegalSequence hp
  · exact h

theorem BlockInv.exec {i : Instr} {s t : State} (h : BlockInv s) (ht : exec i s = .next t) : BlockInv t := by
  cases i with
  | start =>
    obtain rfl := Host.Outcome.next.inj ((exec_start s).symm.trans ht)
    exact blockInv_startState _
  | push b => exact h.execPush ht
  | fin => exact h.execFin ht
  | chk e => exact h.execChk ht

/-- Settles O49: the registers of reset are those of START. -/
theorem invHoldsAtReset : Obligations.InvHoldsAtReset := by
  unfold Obligations.InvHoldsAtReset
  exact blockInv_startState []

/-- Settles O50: each kind of edge keeps the invariants, which do not speak of the input to come. -/
theorem stepKeepsInv : Obligations.StepKeepsInv := by
  unfold Obligations.StepKeepsInv
  intro s t h hstep
  rcases step_cases hstep with ⟨-, rfl⟩ | ⟨p, rest, -, hedge⟩
  · exact h
  have hrest := h.withPending rest
  rcases hedge with ⟨-, rfl⟩ | ⟨-, -, rfl⟩ | ⟨-, -, i, -, hexec⟩ | ⟨-, -, e, -, rfl⟩
  · exact blockInv_startState rest
  · exact hrest
  · exact hrest.exec hexec
  · exact hrest.illegalWord

/-! ### Every step answers -/

/-- The states in which PUSH has no row in 42_commands.md R132 (log entry 3). -/
def NoPushRow (s : State) : Prop := s.phase = .type ∧ 3#3 < s.tcn ∨ s.phase = .data ∧ Config.lenMax < s.len

theorem execPush_of_noPushRow {s : State} (b : Byte) (h : NoPushRow s) : execPush b s = .refused .outsideInvariants := by
  rcases h with ⟨hp, hn⟩ | ⟨hp, hl⟩
  · have hlt : ¬s.tcn < 3#3 := by bv_omega
    have hne : ¬s.tcn = 3#3 := by bv_omega
    simp [Machine.execPush, hp, hlt, hne]
  · have hlt : ¬s.len < Config.lenMax := by bv_omega
    have hne : ¬s.len = Config.lenMax := by bv_omega
    simp [Machine.execPush, absorbPayload, hp, hlt, hne]

theorem execPush_answers {s : State} (b : Byte) (h : ¬NoPushRow s) : ∃ t, execPush b s = .next t := by
  cases hp : s.phase with
  | type =>
    have hn : ¬3#3 < s.tcn := fun hn => h (.inl ⟨hp, hn⟩)
    obtain ⟨t, ht, -⟩ := execPush_type b hp (by bv_omega)
    exact ⟨t, ht⟩
  | data =>
    have hl : ¬Config.lenMax < s.len := fun hl => h (.inr ⟨hp, hl⟩)
    obtain ⟨t, ht⟩ := absorbPayload_next (m := Config.lenMax) b (s := s) (by bv_omega)
    exact ⟨t, by simpa only [Machine.execPush, hp] using ht⟩
  | done => exact ⟨_, exec_of_done (i := .push b) hp nofun⟩
  | fault => exact ⟨_, exec_of_fault (i := .push b) hp nofun⟩

theorem execFin_answers (s : State) : ∃ t, execFin s = .next t := by
  cases hp : s.phase with
  | type => exact ⟨_, exec_fin_of_type hp⟩
  | data => exact ⟨_, exec_fin_of_data hp⟩
  | done => exact ⟨_, exec_of_done (i := .fin) hp nofun⟩
  | fault => exact ⟨_, exec_of_fault (i := .fin) hp nofun⟩

theorem execChk_answers (e : Word32) (s : State) : ∃ t, execChk e s = .next t := by
  cases hp : s.phase with
  | type => exact ⟨_, exec_chk_of_type e hp⟩
  | data =>
    by_cases he : crcVal s = e
    · exact ⟨_, exec_chk_of_crcVal_eq hp he⟩
    · exact ⟨_, exec_chk_of_crcVal_ne hp he⟩
  | done => exact ⟨_, exec_of_done (i := .chk e) hp nofun⟩
  | fault => exact ⟨_, exec_of_fault (i := .chk e) hp nofun⟩

/-- Settles O37: PUSH is refused without a row and answers with one; START, FIN and CHK answer in every state. -/
theorem pushStopsOnlyOutsideInvariants : Obligations.PushStopsOnlyOutsideInvariants := by
  unfold Obligations.PushStopsOnlyOutsideInvariants
  refine fun i s => ⟨?_, fun h => ?_⟩
  · rintro ⟨⟨b, rfl⟩, h⟩
    exact execPush_of_noPushRow b h
  · cases i with
    | start => exact ⟨_, exec_start s⟩
    | push b => exact execPush_answers b fun hrow => h ⟨⟨b, rfl⟩, hrow⟩
    | fin => exact execFin_answers s
    | chk e => exact execChk_answers e s

/-- The invariants exclude the states that have no row for PUSH (10_state.md R26). -/
theorem BlockInv.not_noPushRow {s : State} (h : BlockInv s) : ¬NoPushRow s := by
  rintro (⟨hp, hn⟩ | ⟨hp, hl⟩)
  · obtain ⟨hlt, -, -⟩ := h.i2 hp
    bv_omega
  · obtain ⟨-, hle, -⟩ := h.i3 hp
    bv_omega

theorem BlockInv.exec_answers {s : State} (h : BlockInv s) (i : Instr) : ∃ t, Machine.exec i s = .next t := by
  obtain ⟨-, hanswers⟩ := pushStopsOnlyOutsideInvariants i s
  exact hanswers fun ⟨_, hrow⟩ => h.not_noPushRow hrow

theorem BlockInv.acceptWord_answers {s : State} (h : BlockInv s) (w : Command) : ∃ t, acceptWord w s = .next t := by
  cases hd : decode w with
  | ok i =>
    rw [acceptWord_ok hd]
    exact h.exec_answers i
  | error e => exact ⟨_, acceptWord_error hd s⟩

theorem BlockInv.stepSafe {s : State} (h : BlockInv s) : StepSafe s := by
  cases hpend : s.pending with
  | nil => exact ⟨_, step_nil hpend⟩
  | cons p rest =>
    rw [StepSafe, step_cons hpend]
    cases hrst : p.rst with
    | true => exact ⟨_, clockEdge_reset hrst _⟩
    | false =>
      cases hvalid : p.cmdValid with
      | false => exact ⟨_, clockEdge_idle hrst hvalid _⟩
      | true =>
        rw [clockEdge_cmd hrst hvalid]
        exact (h.withPending rest).acceptWord_answers p.cmd

/-- Settles O51: a step answers, and what it answers meets the invariants again; so by induction on the length of the run. -/
theorem everyStepAnswers : Obligations.EveryStepAnswers := by
  unfold Obligations.EveryStepAnswers
  refine ⟨fun s h => h.stepSafe, fun k => ?_⟩
  induction k with
  | zero => exact fun s h => ⟨s, rfl, h⟩
  | succ k ih =>
    intro s h
    obtain ⟨u, hu⟩ := h.stepSafe
    rw [run_succ hu k]
    exact ih u (stepKeepsInv s u h hu)

/-! ### CAUSE by PHASE -/

/-- Settles O22: the codes by definition, and CAUSE by phase from invariants 2 to 5 of 10_state.md R26. -/
theorem phaseAndCauseCodes : Obligations.PhaseAndCauseCodes := by
  unfold Obligations.PhaseAndCauseCodes
  refine ⟨rfl, rfl, rfl, rfl, rfl, rfl, rfl, rfl, rfl, rfl, rfl, fun c => by cases c <;> decide, fun s h => ⟨h.i5.2, ?_⟩⟩
  intro hne
  cases hp : s.phase with
  | type =>
    obtain ⟨-, -, hc⟩ := h.i2 hp
    exact hc
  | data =>
    obtain ⟨-, -, hc⟩ := h.i3 hp
    exact hc
  | done =>
    obtain ⟨-, -, hc⟩ := h.i4 hp
    exact hc
  | fault => exact absurd hp hne

end Sys2Proof.Safety
end

section
/-! PROOFS. The CRC's laws: pieces, linearity, the table form, bijectivity, single flipped bits, and a stored crc
(41_crc32.md R114 to R120, 20_memory.md R54; O10, O11, O13 to O16). -/

namespace Sys2Proof.Machine

open Sys2Proof.Claims

theorem crcBytes_append (c : Word32) (s t : List Byte) : crcBytes c (s ++ t) = crcBytes (crcBytes c s) t :=
  List.foldl_append

/-- Settles O10: the fold over a concatenation. -/
theorem crcAbsorbsInPieces : Obligations.CrcAbsorbsInPieces := by
  unfold Obligations.CrcAbsorbsInPieces
  exact fun c s t => ⟨crcBytes_nil c, crcBytes_append c s t⟩

/-! ### Linearity -/

/-- A fold of bits is linear where the bits are xor-ed one by one. -/
theorem foldl_crcBit_xor (js : List Nat) (a b : Byte) (c d : Word32) :
    js.foldl (fun r j => crcBit r ((a ^^^ b).getLsbD j)) (c ^^^ d) =
      js.foldl (fun r j => crcBit r (a.getLsbD j)) c ^^^ js.foldl (fun r j => crcBit r (b.getLsbD j)) d := by
  induction js generalizing c d with
  | nil => rfl
  | cons j js ih => rw [List.foldl_cons, BitVec.getLsbD_xor, crcBit_xor, ih, List.foldl_cons, List.foldl_cons]

/-- One byte is linear over GF(2) (41_crc32.md R118). -/
theorem crcByte_xor (c d : Word32) (a b : Byte) : crcByte (c ^^^ d) (a ^^^ b) = crcByte c a ^^^ crcByte d b := by
  simp only [crcByte_eq_foldl_range]
  exact foldl_crcBit_xor ..

theorem crcBytes_xor (c d : Word32) {s t : List Byte} (h : s.length = t.length) :
    crcBytes (c ^^^ d) (List.zipWith (· ^^^ ·) s t) = crcBytes c s ^^^ crcBytes d t := by
  induction s generalizing c d t with
  | nil =>
    obtain rfl : t = [] := List.length_eq_zero_iff.mp h.symm
    rfl
  | cons a s ih =>
    obtain ⟨b, t, rfl⟩ := List.exists_cons_of_length_eq_add_one h.symm
    rw [List.zipWith_cons_cons, crcBytes_cons, crcByte_xor, ih _ _ (Nat.succ.inj h), crcBytes_cons, crcBytes_cons]

/-- Settles O13, bit by bit and byte by byte from `crcBit_xor`. -/
theorem crcLinear : Obligations.CrcLinear := by
  unfold Obligations.CrcLinear
  exact ⟨crcByte_xor, fun c d _ _ => crcBytes_xor c d⟩

/-! ### The table form -/

theorem zeroExtend_byte_ushiftRight_8 (b : Byte) : b.zeroExtend 32 >>> 8 = 0#32 := by
  ext i hi
  simp

/-- A register takes a zero byte as the zero register takes its low byte, and the rest moves down. -/
theorem crcByte_zero_eq (x : Word32) : crcByte x 0x00#8 = crcByte 0#32 (x.extractLsb' 0 8) ^^^ x >>> 8 := by
  have hlow : (List.range 8).foldl (fun r i => crcBit r (x.getLsbD i)) 0#32 = crcByte 0#32 (x.extractLsb' 0 8) := by
    rw [crcByte_eq_foldl_range]
    refine List.foldl_ext _ _ _ fun r i hi => ?_
    simp [List.mem_range.mp hi]
  calc crcByte x 0x00#8 = shiftStep^[8] (x ^^^ 0#32) := crcByte_eq_shiftStep_iterate x 0x00#8
    _ = shiftStep^[8] (0#32 ^^^ x) := by rw [BitVec.xor_comm]
    _ = crcByte 0#32 (x.extractLsb' 0 8) ^^^ x >>> 8 := by rw [shiftStep_iterate_xor, hlow]

/-- The table form (41_crc32.md R116): the low byte of the register selects, the rest moves down. -/
theorem crcByte_eq_crcTable (c : Word32) (b : Byte) :
    crcByte c b = crcTable ((c ^^^ b.zeroExtend 32).extractLsb' 0 8) ^^^ (c >>> 8) := by
  rw [crcByte_eq_crcByte_xor_zero, crcByte_zero_eq, crcByte_eq_crcByte_xor_zero 0#32, BitVec.zero_xor,
    BitVec.ushiftRight_xor_distrib, zeroExtend_byte_ushiftRight_8, BitVec.xor_zero, crcTable]

/-- Settles O11, by `crcByte_eq_crcTable`; the four entries are evaluated. -/
theorem crcTableForm : Obligations.CrcTableForm := by
  unfold Obligations.CrcTableForm
  exact ⟨crcByte_eq_crcTable, by decide, by decide, by decide, by decide⟩

/-! ### Bijectivity -/

/-- Bit 31 of the polynomial is set: a bit that leaves by the low end shows at the high end (41_crc32.md R119). -/
theorem crcBit_false_eq_zero {c : Word32} (h : crcBit c false = 0#32) : c = 0#32 := by
  rw [crcBit_eq_xor, Bool.xor_false] at h
  have hlow : c.getLsbD 0 = false := by
    by_contra hset
    rw [if_pos (eq_true_of_ne_false hset)] at h
    have htop := congrArg (BitVec.getLsbD · 31) h
    simp [Config.crcPolyRefl] at htop
  rw [hlow, if_neg Bool.false_ne_true, BitVec.xor_zero] at h
  refine BitVec.eq_of_getLsbD_eq fun j hj => ?_
  cases j with
  | zero => simpa using hlow
  | succ j => simpa [Nat.add_comm 1] using congrArg (BitVec.getLsbD · j) h

theorem crcBit_injective (d : Bool) : Function.Injective fun c => crcBit c d := by
  intro c e h
  have hzero : crcBit (c ^^^ e) (d ^^ d) = 0#32 := by rw [crcBit_xor, BitVec.xor_eq_zero_iff]; exact h
  rw [Bool.xor_self] at hzero
  exact BitVec.xor_eq_zero_iff.mp (crcBit_false_eq_zero hzero)

theorem foldl_injective {α β : Type} {f : α → β → α} (hf : ∀ b, Function.Injective fun a => f a b) (bs : List β) :
    Function.Injective fun a => bs.foldl f a := by
  induction bs with
  | nil => exact Function.injective_id
  | cons b bs ih => exact ih.comp (hf b)

theorem crcByte_injective (b : Byte) : Function.Injective fun c => crcByte c b :=
  foldl_injective crcBit_injective (bitsInOrder b)

theorem crcBytes_injective (s : List Byte) : Function.Injective fun c => crcBytes c s :=
  foldl_injective crcByte_injective s

/-- Settles O14: an injective map of the finitely many words is bijective, and zero is the image of zero. -/
theorem crcByteBijective : Obligations.CrcByteBijective := by
  unfold Obligations.CrcByteBijective
  refine ⟨fun b => Finite.injective_iff_bijective.mp (crcByte_injective b), fun c h => crcByte_injective 0x00#8 ?_⟩
  exact h.trans (by decide : 0#32 = crcByte 0#32 0x00#8)

/-! ### One flipped bit -/

/-- Different bytes take a register to different registers. -/
theorem crcByte_injective_byte (c : Word32) : Function.Injective (crcByte c) := by
  intro a b h
  rw [crcByte_eq_crcByte_xor_zero, crcByte_eq_crcByte_xor_zero c b] at h
  have hxor : a.zeroExtend 32 = b.zeroExtend 32 := (BitVec.xor_right_inj c).mp (crcByte_injective _ h)
  simpa using congrArg (BitVec.setWidth 8) hxor

theorem crc32_ne_of_byte_ne (pre post : List Byte) {a b : Byte} (h : a ≠ b) :
    crc32 (pre ++ a :: post) ≠ crc32 (pre ++ b :: post) := by
  simp only [crc32, crcBytes_append, crcBytes_cons]
  intro heq
  exact h (crcByte_injective_byte _ (crcBytes_injective post ((BitVec.xor_left_inj _).mp heq)))

theorem flip_ne (b : Byte) {k : Nat} (hk : k < 8) : b ^^^ 1#8 <<< k ≠ b := by
  intro h
  have hzero : 1#8 <<< k = 0#8 := xor_left_eq_self_iff.mp h
  have hbit := congrArg (BitVec.getLsbD · k) hzero
  simp [hk] at hbit

/-- Settles O15: the flip makes a different byte, which leaves a different register, and no later byte undoes that. -/
theorem singleBitFlipDetected : Obligations.SingleBitFlipDetected := by
  unfold Obligations.SingleBitFlipDetected
  exact fun pre post b k hk => crc32_ne_of_byte_ne pre post (flip_ne b hk)

/-! ### A stored crc -/

/-- TYPE in byte form is the type code in stream order (10_state.md R32, 20_memory.md R54). -/
theorem serBe32_typeView (s : State) : serBe32 (typeView s) = typeBytes s.tc := by
  simp only [serBe32, typeBytes, typeView_extract_b0, typeView_extract_b1, typeView_extract_b2, typeView_extract_b3]

/-- The bytes of the number that four bytes denote are those bytes (20_memory.md R54). -/
theorem serBe32_deBe32 (b0 b1 b2 b3 : Byte) : serBe32 (deBe32 b0 b1 b2 b3) = [b0, b1, b2, b3] :=
  serBe32_typeView { State.reset with tc := tcOf b0 b1 b2 b3 }

theorem deBe32_of_serBe32 {w : Word32} {b0 b1 b2 b3 : Byte} (h : serBe32 w = [b0, b1, b2, b3]) : deBe32 b0 b1 b2 b3 = w := by
  simp only [serBe32, List.cons.injEq, and_true] at h
  obtain ⟨rfl, rfl, rfl, rfl⟩ := h
  have happend (start len₁ len₂ : Nat) : w.extractLsb' (start + len₁) len₂ ++ w.extractLsb' start len₁ =
      w.extractLsb' start (len₂ + len₁) := BitVec.extractLsb'_append_extractLsb'_eq_extractLsb' rfl
  rw [deBe32, happend 16 8 8, happend 8 8 16, happend 0 8 24, BitVec.extractLsb'_eq_self]

/-- Settles O16: the number of the four bytes is CRCVAL, with which the operand is compared. -/
theorem crcFieldBytes : Obligations.CrcFieldBytes := by
  unfold Obligations.CrcFieldBytes
  exact ⟨serBe32_deBe32, fun s b0 b1 b2 b3 hp hser => exec_chk_of_crcVal_eq hp (deBe32_of_serBe32 hser).symm⟩

end Sys2Proof.Machine
end

section
/-! PROOFS. The polynomial form of the CRC: the register is the remainder of the message modulo the generator over GF(2)
(41_crc32.md R117; O12). -/

namespace Sys2Proof.Machine

open Polynomial

/-! ### The polynomials of a register, of a bit sequence, and of the generator -/

/-- The polynomial of a register: bit `j` is the coefficient of x^(31-j) (41_crc32.md R117). -/
noncomputable def registerPoly (c : Word32) : (ZMod 2)[X] :=
  ∑ j ∈ Finset.range 32, if c.getLsbD j then X ^ (31 - j) else 0

/-- The polynomial of a bit sequence: its first bit is the coefficient of the highest power. -/
noncomputable def bitsPoly (bits : List Bool) : (ZMod 2)[X] :=
  ∑ i ∈ Finset.range bits.length, if bits.getD i false then X ^ (bits.length - 1 - i) else 0

/-- The generator (41_crc32.md R111). -/
noncomputable def generatorPoly : (ZMod 2)[X] :=
  X ^ 32 + X ^ 26 + X ^ 23 + X ^ 22 + X ^ 16 + X ^ 12 + X ^ 11 + X ^ 10 + X ^ 8 + X ^ 7 + X ^ 5 + X ^ 4 + X ^ 2 + X + 1

theorem degree_generatorPoly : generatorPoly.degree = 32 := by
  unfold generatorPoly
  compute_degree!

theorem monic_generatorPoly : generatorPoly.Monic := by
  unfold generatorPoly
  monicity!

/-- A polynomial taken under the difference of two bits is the sum over GF(2) of what each takes. -/
theorem ite_xor_eq_add (a b : Bool) (p : (ZMod 2)[X]) :
    (if a ^^ b then p else 0) = (if a then p else 0) + if b then p else 0 := by
  cases a <;> cases b <;> simp [CharTwo.add_self_eq_zero]

theorem coeff_registerPoly (c : Word32) {j : Nat} (hj : j < 32) :
    (registerPoly c).coeff (31 - j) = if c.getLsbD j then 1 else 0 := by
  have hpower : ∀ i ∈ Finset.range 32, i ≠ j →
      (if c.getLsbD i then X ^ (31 - i) else (0 : (ZMod 2)[X])).coeff (31 - j) = 0 := by
    intro i hi hne
    have hi' := Finset.mem_range.mp hi
    split
    · rw [coeff_X_pow, if_neg (by omega)]
    · exact coeff_zero _
  rw [registerPoly, finsetSum_coeff, Finset.sum_eq_single_of_mem j (Finset.mem_range.mpr hj) hpower]
  split <;> simp

theorem degree_registerPoly_lt (c : Word32) : (registerPoly c).degree < 32 := by
  refine mem_degreeLT.mp (Submodule.sum_mem _ fun j _ => mem_degreeLT.mpr ?_)
  split
  · rw [degree_X_pow]
    exact_mod_cast (by omega : 31 - j < 32)
  · rw [degree_zero]
    exact WithBot.bot_lt_coe 32

/-! ### One bit -/

theorem registerPoly_zero : registerPoly 0#32 = 0 := by
  simp [registerPoly]

theorem registerPoly_xor (c e : Word32) : registerPoly (c ^^^ e) = registerPoly c + registerPoly e := by
  simp only [registerPoly, BitVec.getLsbD_xor, ite_xor_eq_add, Finset.sum_add_distrib]

/-- Moving the register down a place multiplies by x; bit 0, which leaves, would be the coefficient of x^32. -/
theorem X_mul_registerPoly (c : Word32) :
    X * registerPoly c = registerPoly (c >>> 1) + if c.getLsbD 0 then X ^ 32 else 0 := by
  have hshift : registerPoly (c >>> 1) = ∑ j ∈ Finset.range 31, if c.getLsbD (j + 1) then X ^ (31 - j) else 0 := by
    rw [registerPoly, Finset.sum_range_succ]
    simp [Nat.add_comm]
  have hmul : ∀ j ∈ Finset.range 31, X * (if c.getLsbD (j + 1) then X ^ (31 - (j + 1)) else 0) =
      if c.getLsbD (j + 1) then (X : (ZMod 2)[X]) ^ (31 - j) else 0 := by
    intro j hj
    have hj' := Finset.mem_range.mp hj
    rw [mul_ite, mul_zero, ← pow_succ', show 31 - (j + 1) + 1 = 31 - j by omega]
  rw [hshift, registerPoly, Finset.sum_range_succ', mul_add, Finset.mul_sum, Finset.sum_congr rfl hmul, mul_ite, mul_zero,
    ← pow_succ']

/-- The reflected polynomial is the generator without x^32 (41_crc32.md R111). -/
theorem registerPoly_crcPolyRefl : registerPoly Config.crcPolyRefl + X ^ 32 = generatorPoly := by
  have hbits : (Finset.range 32).filter (fun j => Config.crcPolyRefl.getLsbD j = true) =
      {5, 8, 9, 15, 19, 20, 21, 23, 24, 26, 27, 29, 30, 31} := by decide
  rw [registerPoly, ← Finset.sum_filter, hbits, generatorPoly]
  simp only [Finset.sum_insert, Finset.mem_insert, Finset.mem_singleton, Finset.sum_singleton, Nat.reduceEqDiff,
    or_self, not_false_iff, Nat.reduceSub]
  ring

theorem registerPoly_ite (b : Bool) (c : Word32) :
    registerPoly (if b then c else 0#32) = if b then registerPoly c else 0 := by
  cases b
  · exact registerPoly_zero
  · rfl

/-- One bit: times x, plus the data bit at x^32, less the generator when the two bits at x^32 differ (41_crc32.md R112). -/
theorem registerPoly_crcBit (c : Word32) (d : Bool) :
    registerPoly (crcBit c d) =
      X * registerPoly c + (if d then X ^ 32 else 0) + if c.getLsbD 0 ^^ d then generatorPoly else 0 := by
  rw [crcBit_eq_xor, registerPoly_xor, registerPoly_ite, X_mul_registerPoly, ← registerPoly_crcPolyRefl, ite_add_zero,
    ite_xor_eq_add _ _ (X ^ 32)]
  linear_combination -CharTwo.add_self_eq_zero (if c.getLsbD 0 then (X : (ZMod 2)[X]) ^ 32 else 0)
    - CharTwo.add_self_eq_zero (if d then (X : (ZMod 2)[X]) ^ 32 else 0)

/-! ### A bit sequence -/

theorem bitsPoly_cons (d : Bool) (bits : List Bool) :
    bitsPoly (d :: bits) = (if d then X ^ bits.length else 0) + bitsPoly bits := by
  rw [bitsPoly, List.length_cons, Finset.sum_range_succ', add_comm, bitsPoly]
  congr 1
  refine Finset.sum_congr rfl fun i _ => ?_
  rw [List.getD_cons_succ, show bits.length + 1 - 1 - (i + 1) = bits.length - 1 - i by omega]

/-- After `n` bits the register holds what it held times x^n, plus the bits' polynomial times x^32, modulo the generator. -/
theorem generatorPoly_dvd_sub_registerPoly_foldl (bits : List Bool) (c : Word32) :
    generatorPoly ∣ (bitsPoly bits * X ^ 32 + registerPoly c * X ^ bits.length) - registerPoly (bits.foldl crcBit c) := by
  induction bits generalizing c with
  | nil => simp [bitsPoly]
  | cons d bits ih =>
    obtain ⟨q, hq⟩ := ih (crcBit c d)
    refine ⟨q - (if c.getLsbD 0 ^^ d then X ^ bits.length else 0), ?_⟩
    rw [mul_sub, ← hq, registerPoly_crcBit, bitsPoly_cons, List.foldl_cons, List.length_cons, pow_succ]
    split_ifs <;> ring

/-! ### A byte sequence -/

theorem crcBytes_eq_foldl_bits (c : Word32) (s : List Byte) : crcBytes c s = (s.flatMap bitsInOrder).foldl crcBit c := by
  induction s generalizing c with
  | nil => rfl
  | cons b s ih => rw [crcBytes_cons, ih, List.flatMap_cons, List.foldl_append, crcByte_eq_foldl]

theorem length_flatMap_bitsInOrder (s : List Byte) : (s.flatMap bitsInOrder).length = 8 * s.length := by
  simp [List.length_flatMap, Nat.mul_comm]

/-- The initial register is the sum of x^0 to x^31. -/
theorem registerPoly_crcInit : registerPoly 0xFFFFFFFF#32 = ∑ i ∈ Finset.range 32, X ^ i := by
  rw [← Finset.sum_range_reflect]
  refine Finset.sum_congr rfl fun j hj => ?_
  rw [show 0xFFFFFFFF#32 = BitVec.allOnes 32 from rfl, BitVec.getLsbD_allOnes, if_pos (by simpa using hj)]

theorem modByMonic_generatorPoly (s : List Byte) (c : Word32) :
    (bitsPoly (s.flatMap bitsInOrder) * X ^ 32 + registerPoly c * X ^ (8 * s.length)) %ₘ generatorPoly =
      registerPoly (crcBytes c s) := by
  have hdvd := generatorPoly_dvd_sub_registerPoly_foldl (s.flatMap bitsInOrder) c
  rw [← crcBytes_eq_foldl_bits, length_flatMap_bitsInOrder] at hdvd
  rw [modByMonic_eq_of_dvd_sub monic_generatorPoly hdvd, modByMonic_eq_self_iff monic_generatorPoly, degree_generatorPoly]
  exact degree_registerPoly_lt _

/-- Settles O12: the remainder is the register's polynomial. -/
theorem crcPolynomialForm : Obligations.CrcPolynomialForm := by
  unfold Obligations.CrcPolynomialForm
  intro s
  have hmod := modByMonic_generatorPoly s 0xFFFFFFFF#32
  rw [registerPoly_crcInit, bitsPoly, length_flatMap_bitsInOrder, generatorPoly] at hmod
  simp only [hmod]
  refine ⟨degree_registerPoly_lt _, fun j hj => ?_⟩
  rw [coeff_registerPoly _ hj]
  split <;> simp_all

end Sys2Proof.Machine
end

section
/-! PROOFS. What the views determine, and the case of a letter (10_state.md, section 8, 40_typecode.md, section 3; O21, O26). -/

namespace Sys2Proof.Machine

open Sys2Proof.Safety Sys2Proof.Claims

theorem phaseCode_injective : Function.Injective phaseCode := by
  intro p q
  cases p <;> cases q <;> decide

theorem causeCode_injective : Function.Injective causeCode := by
  intro c e
  cases c <;> cases e <;> decide

/-- STATUS holds TCN, CAUSE and PHASE without loss (10_state.md R34). -/
theorem eq_of_statusView_eq {s t : State} (h : statusView s = statusView t) :
    s.tcn = t.tcn ∧ s.phase = t.phase ∧ s.cause = t.cause := by
  refine ⟨?_, phaseCode_injective ?_, causeCode_injective ?_⟩
  · rw [← statusView_extract_tcn, h, statusView_extract_tcn]
  · rw [← statusView_extract_phase, h, statusView_extract_phase]
  · rw [← statusView_extract_cause, h, statusView_extract_cause]

/-- Settles O26: CRC from CRCVAL, TC from TYPE, LEN from LEN, and the rest from STATUS. -/
theorem viewsDetermineRegisters : Obligations.ViewsDetermineRegisters := by
  unfold Obligations.ViewsDetermineRegisters
  intro s t h
  have hcrc : s.crc = t.crc := (BitVec.xor_left_inj Config.crcXorOut).mp (h 0#2)
  have htc : s.tc = t.tc := typeView_inj.mp (h 1#2)
  have hlen : s.len = t.len := h 2#2
  obtain ⟨htcn, hphase, hcause⟩ := eq_of_statusView_eq (h 3#2)
  exact Registers.ext hcrc htc htcn hlen hphase hcause

/-- Bit 5 parts the two ranges of letters (40_typecode.md, section 3). -/
theorem getLsbD_five_of_isLetter {b : Byte} (h : isLetter b = true) :
    (b.getLsbD 5 = false ↔ 0x41#8 ≤ b ∧ b ≤ 0x5A#8) ∧ (b.getLsbD 5 = true ↔ 0x61#8 ≤ b ∧ b ≤ 0x7A#8) := by
  revert b
  decide

/-- A letter whose bit 5 is as asked: `a` where it is set, `A` where it is clear. -/
def letterWithBit (p : Bool) : Byte := if p then 0x61#8 else 0x41#8

theorem isLetter_letterWithBit (p : Bool) : isLetter (letterWithBit p) = true := by
  cases p <;> decide

theorem getLsbD_letterWithBit (p : Bool) : (letterWithBit p).getLsbD Config.flagBit = p := by
  cases p <;> decide

/-- Settles O21: bit 5 is the case of a letter, and each byte's property is its own letter's case, so all combinations occur. -/
theorem caseReading : Obligations.CaseReading := by
  unfold Obligations.CaseReading
  refine ⟨fun b => getLsbD_five_of_isLetter, fun p0 p1 p2 p3 =>
    ⟨tcOf (letterWithBit !p0) (letterWithBit !p1) (letterWithBit !p2) (letterWithBit p3), ?_, ?_, ?_, ?_, ?_⟩⟩
  · exact tcLetters_iff.mpr ⟨isLetter_letterWithBit _, isLetter_letterWithBit _, isLetter_letterWithBit _,
      isLetter_letterWithBit _⟩
  · rw [isCritical, tcOf, getLsbD_letterWithBit, Bool.not_not]
  · rw [isPublic, tcOf, getLsbD_letterWithBit, Bool.not_not]
  · rw [isReservedBitValid, tcOf, getLsbD_letterWithBit, Bool.not_not]
  · rw [isSafeToCopy, tcOf, getLsbD_letterWithBit]

end Sys2Proof.Machine
end

section
/-! PROOFS. The input still to come decides nothing, what each command leaves unchanged, and the phase table (10_state.md R20
to R25, 42_commands.md R130, R143; O42 to O46, O57). -/

namespace Sys2Proof.Machine

open Sys2Proof.Safety Sys2Proof.Claims

/-! ### The input still to come -/

/-- The outcome with the input still to come replaced. -/
def setPending (rest : List PortSample) : Host.Outcome State Fault Refusal → Host.Outcome State Fault Refusal
  | .next t => .next { t with pending := rest }
  | .fault r => .fault r
  | .refused r => .refused r

theorem completeTypeCode_withPending (b : Byte) (s : State) (rest : List PortSample) :
    completeTypeCode b { s with pending := rest } = { completeTypeCode b s with pending := rest } := by
  rcases completeTypeCode_cases b s with ⟨hl, heq⟩ | ⟨hl, heq⟩ <;> rw [heq]
  · exact if_pos hl
  · exact if_neg (Bool.eq_false_iff.mp hl)

theorem execPush_withPending (b : Byte) (s : State) (rest : List PortSample) :
    execPush b { s with pending := rest } = setPending rest (execPush b s) := by
  by_cases hrow : NoPushRow s
  · rw [execPush_of_noPushRow b hrow]
    exact execPush_of_noPushRow b hrow
  obtain ⟨t, ht⟩ := execPush_answers b hrow
  rw [ht]
  rcases execPush_cases ht with ⟨hp, hn, rfl⟩ | ⟨hp, hn, rfl⟩ | ⟨hp, hl, rfl⟩ | ⟨hp, hl, rfl⟩ | ⟨hp, rfl⟩ | ⟨hp, rfl⟩
  · exact exec_push_of_tcn_lt b hp hn
  · rw [setPending, ← completeTypeCode_withPending]
    exact exec_push_of_tcn_eq b hp hn
  · exact execPush_data b hp hl
  · exact exec_push_of_len_eq b hp hl
  · exact exec_of_done (i := .push b) hp nofun
  · exact exec_of_fault (i := .push b) hp nofun

theorem execFin_withPending (s : State) (rest : List PortSample) :
    execFin { s with pending := rest } = setPending rest (execFin s) := by
  obtain ⟨t, ht⟩ := execFin_answers s
  rw [ht]
  rcases execFin_cases ht with ⟨hp, rfl⟩ | ⟨hp, rfl⟩ | ⟨hp, rfl⟩ | ⟨hp, rfl⟩
  · exact exec_fin_of_type hp
  · exact exec_fin_of_data hp
  · exact exec_of_done (i := .fin) hp nofun
  · exact exec_of_fault (i := .fin) hp nofun

theorem execChk_withPending (e : Word32) (s : State) (rest : List PortSample) :
    execChk e { s with pending := rest } = setPending rest (execChk e s) := by
  obtain ⟨t, ht⟩ := execChk_answers e s
  rw [ht]
  rcases execChk_cases ht with ⟨hp, rfl⟩ | ⟨hp, he, rfl⟩ | ⟨hp, he, rfl⟩ | ⟨hp, rfl⟩ | ⟨hp, rfl⟩
  · exact exec_chk_of_type e hp
  · exact exec_chk_of_crcVal_eq hp he
  · exact exec_chk_of_crcVal_ne hp he
  · exact exec_of_done (i := .chk e) hp nofun
  · exact exec_of_fault (i := .chk e) hp nofun

/-- No command reads or writes the input still to come (log entry 1). -/
theorem exec_withPending (i : Instr) (s : State) (rest : List PortSample) :
    exec i { s with pending := rest } = setPending rest (exec i s) := by
  cases i with
  | start => rfl
  | push b => exact execPush_withPending b s rest
  | fin => exact execFin_withPending s rest
  | chk e => exact execChk_withPending e s rest

theorem illegalWord_withPending (s : State) (rest : List PortSample) :
    illegalWord { s with pending := rest } = { illegalWord s with pending := rest } := by
  by_cases hp : s.phase = .fault
  · rw [illegalWord_of_fault hp]
    exact illegalWord_of_fault hp
  · rw [illegalWord_of_not_fault hp]
    exact illegalWord_of_not_fault hp

theorem takeInput_withPending (input : Input) (s : State) (rest : List PortSample) :
    takeInput input { s with pending := rest } = setPending rest (takeInput input s) := by
  cases input with
  | reset => rfl
  | idle => rfl
  | cmd w =>
    change acceptWord w _ = setPending rest (acceptWord w s)
    cases hd : decode w with
    | ok i => rw [acceptWord_ok hd, acceptWord_ok hd, exec_withPending]
    | error e => rw [acceptWord_error hd, acceptWord_error hd, illegalWord_withPending, setPending]

theorem exec_pending {i : Instr} {s t : State} (h : exec i s = .next t) : t.pending = s.pending := by
  have hset := exec_withPending i s s.pending
  rw [h] at hset
  have heq : t = { t with pending := s.pending } := Host.Outcome.next.inj hset
  exact (congrArg State.pending heq :)

/-- A step does to the registers what `step(S, input)` of 42_commands.md R130 does, and leaves the inputs after its own. -/
theorem step_eq_setPending {s : State} {p : PortSample} {rest : List PortSample} (hpend : s.pending = p :: rest) :
    step s = setPending rest (takeInput (inputOf p) { toRegisters := s.toRegisters, pending := [] }) := by
  rw [step_cons hpend, ← takeInput_withPending]
  rfl

theorem setPending_next_iff {o : Host.Outcome State Fault Refusal} {rest : List PortSample} {S : Registers} :
    setPending rest o = .next { toRegisters := S, pending := rest } ↔ ∃ t, o = .next t ∧ t.toRegisters = S := by
  cases o <;> simp [setPending]

theorem setPending_refused_iff {o : Host.Outcome State Fault Refusal} {rest : List PortSample} {r : Refusal} :
    setPending rest o = .refused r ↔ o = .refused r := by
  cases o <;> simp [setPending]

theorem setPending_pending {o : Host.Outcome State Fault Refusal} {rest : List PortSample} {t : State}
    (h : setPending rest o = .next t) : t.pending = rest := by
  cases o with
  | next u =>
    obtain rfl := Host.Outcome.next.inj h
    rfl
  | fault r => cases r
  | refused r => cases h

theorem blockStep_next_iff {S S' : Registers} {input : Input} :
    blockStep S input = .next S' ↔ ∃ t, takeInput input { toRegisters := S, pending := [] } = .next t ∧ t.toRegisters = S' := by
  refine ⟨blockStep_next, ?_⟩
  rintro ⟨t, ht, rfl⟩
  rw [blockStep, ht]

theorem blockStep_refused_iff {S : Registers} {input : Input} {r : Refusal} :
    blockStep S input = .refused r ↔ takeInput input { toRegisters := S, pending := [] } = .refused r := by
  unfold blockStep
  cases takeInput input { toRegisters := S, pending := [] } <;> simp

/-- Settles O57: the step is `blockStep` with the inputs after its own put back, and no view or wire reads them. -/
theorem registersAndInputDecide : Obligations.RegistersAndInputDecide := by
  unfold Obligations.RegistersAndInputDecide
  refine ⟨fun s p rest hpend => ?_, fun s t h => ⟨rdata_congr h, ?_, ?_⟩⟩
  · rw [step_eq_setPending hpend]
    exact ⟨fun _ => setPending_next_iff.trans blockStep_next_iff.symm,
      fun _ => setPending_refused_iff.trans blockStep_refused_iff.symm, fun _ => setPending_pending⟩
  · exact congrArg (fun S : Registers => decide (S.phase = .fault)) h
  · exact congrArg (fun S : Registers => decide (S.phase = .done)) h

/-! ### A step by its edge -/

/-- Settles O46, by the kind of the edge. -/
theorem stepDispatch : Obligations.StepDispatch := by
  unfold Obligations.StepDispatch
  refine ⟨fun s => step_nil, fun s p rest hpend => ⟨step_of_rst hpend, fun hrst hvalid => ?_, fun hrst hvalid => ?_⟩⟩
  · exact (step_cons hpend).trans (clockEdge_idle hrst hvalid _)
  · have hstep : step s = acceptWord p.cmd { s with pending := rest } :=
      (step_cons hpend).trans (clockEdge_cmd hrst hvalid _)
    refine ⟨fun i hi => hstep.trans (acceptWord_ok hi _), fun i hi hp hne => ?_, fun e he hp => ?_, fun e he hp => ?_⟩
    · exact (hstep.trans (acceptWord_ok hi _)).trans (exec_of_fault hp hne)
    · exact hstep.trans (acceptWord_of_illegal ⟨e, he⟩ hp)
    · exact hstep.trans (acceptWord_of_illegal_of_fault ⟨e, he⟩ hp)

/-! ### Frames -/

theorem execPush_frame {b : Byte} {s t : State} (h : execPush b s = .next t) :
    (s.phase ≠ .type → t.tc = s.tc ∧ t.tcn = s.tcn) ∧ (s.phase ≠ .data → t.len = s.len) ∧
      (s.phase = .done ∨ s.phase = .fault → t.crc = s.crc) := by
  rcases execPush_cases h with ⟨hp, -, rfl⟩ | ⟨hp, -, rfl⟩ | ⟨hp, -, rfl⟩ | ⟨hp, -, rfl⟩ | ⟨hp, rfl⟩ | ⟨hp, rfl⟩ <;>
    simp [hp]

/-- CAUSE is written by START and on entering FAULT, and nowhere else (10_state.md R25). -/
theorem exec_cause {i : Instr} {s t : State} (h : exec i s = .next t) (hi : i ≠ .start) :
    t.cause = s.cause ∨ s.phase ≠ .fault ∧ t.phase = .fault := by
  by_cases hp : s.phase = .fault
  · obtain rfl := Host.Outcome.next.inj ((exec_of_fault hp hi).symm.trans h)
    exact .inl rfl
  by_cases ht : t.phase = .fault
  · exact .inr ⟨hp, ht⟩
  left
  cases i with
  | start => exact absurd rfl hi
  | push b =>
    rcases execPush_cases h with ⟨-, -, rfl⟩ | ⟨-, -, rfl⟩ | ⟨-, -, rfl⟩ | ⟨-, -, rfl⟩ | ⟨-, rfl⟩ | ⟨-, rfl⟩
    · rfl
    · rcases completeTypeCode_cases b s with ⟨-, heq⟩ | ⟨-, heq⟩
      · rw [heq]
      · exact absurd (by rw [heq, raiseFault_phase]) ht
    · rfl
    · exact absurd rfl ht
    · exact absurd rfl ht
    · rfl
  | fin =>
    rcases execFin_cases h with ⟨-, rfl⟩ | ⟨-, rfl⟩ | ⟨-, rfl⟩ | ⟨-, rfl⟩
    · exact absurd rfl ht
    · rfl
    · exact absurd rfl ht
    · rfl
  | chk e =>
    rcases execChk_cases h with ⟨-, rfl⟩ | ⟨-, -, rfl⟩ | ⟨-, -, rfl⟩ | ⟨-, rfl⟩ | ⟨-, rfl⟩
    · exact absurd rfl ht
    · rfl
    · exact absurd rfl ht
    · exact absurd rfl ht
    · rfl

/-- Settles O43: FIN and CHK absorb nothing, PUSH by phase, and CAUSE by `exec_cause`. -/
theorem registersWrittenOnlyByTheirCommands : Obligations.RegistersWrittenOnlyByTheirCommands := by
  unfold Obligations.RegistersWrittenOnlyByTheirCommands
  refine fun i s t h => ⟨exec_pending h, fun hi => ?_, fun b hb => ?_, fun hc => ?_⟩
  · have hsame : SameAbsorbed s t := by
      rcases hi with rfl | ⟨e, rfl⟩
      · exact execFin_sameAbsorbed h
      · exact execChk_sameAbsorbed h
    exact ⟨hsame.crc, hsame.tc, hsame.tcn, hsame.len⟩
  · subst hb
    exact execPush_frame h
  · exact or_iff_not_imp_left.mpr fun hi => (exec_cause h hi).resolve_left hc

/-- Settles O44: only START and reset write a complete type code, and both leave the START state. -/
theorem typeCodeImmutable : Obligations.TypeCodeImmutable := by
  unfold Obligations.TypeCodeImmutable
  intro s t hn h
  rcases step_cases h with ⟨-, rfl⟩ | ⟨p, rest, hpend, hedge⟩
  · exact .inl ⟨rfl, rfl⟩
  rcases hedge with ⟨hrst, rfl⟩ | ⟨-, -, rfl⟩ | ⟨-, hvalid, i, hi, hexec⟩ | ⟨-, -, e, -, rfl⟩
  · exact .inr ⟨p, rest, hpend, .inl hrst, rfl⟩
  · exact .inl ⟨rfl, rfl⟩
  · by_cases hstart : i = .start
    · subst hstart
      exact .inr ⟨p, rest, hpend, .inr ⟨hvalid, hi⟩, (Host.Outcome.next.inj hexec).symm⟩
    · exact .inl (exec_keeps_typeCode (s := { s with pending := rest }) hn hstart hexec)
  · exact .inl ⟨illegalWord_tc _, illegalWord_tcn _⟩

/-! ### Nothing but CHK reads CRC -/

theorem completeTypeCode_withCrc (b : Byte) (s : State) (c : Word32) :
    completeTypeCode b { s with crc := c } = { completeTypeCode b s with crc := crcByte c b } := by
  rcases completeTypeCode_cases b s with ⟨hl, heq⟩ | ⟨hl, heq⟩ <;> rw [heq]
  · exact if_pos hl
  · exact if_neg (Bool.eq_false_iff.mp hl)

theorem execPush_withCrc {b : Byte} {s t : State} (h : execPush b s = .next t) (c : Word32) :
    ∃ c', execPush b { s with crc := c } = .next { t with crc := c' } := by
  rcases execPush_cases h with ⟨hp, hn, rfl⟩ | ⟨hp, hn, rfl⟩ | ⟨hp, hl, rfl⟩ | ⟨hp, hl, rfl⟩ | ⟨hp, rfl⟩ | ⟨hp, rfl⟩
  · exact ⟨crcByte c b, exec_push_of_tcn_lt b hp hn⟩
  · refine ⟨crcByte c b, ?_⟩
    rw [← completeTypeCode_withCrc]
    exact exec_push_of_tcn_eq b hp hn
  · exact ⟨crcByte c b, execPush_data b hp hl⟩
  · exact ⟨c, exec_push_of_len_eq b hp hl⟩
  · exact ⟨c, exec_of_done (i := .push b) hp nofun⟩
  · exact ⟨c, exec_of_fault (i := .push b) hp nofun⟩

theorem execFin_withCrc {s t : State} (h : execFin s = .next t) (c : Word32) :
    execFin { s with crc := c } = .next { t with crc := c } := by
  rcases execFin_cases h with ⟨hp, rfl⟩ | ⟨hp, rfl⟩ | ⟨hp, rfl⟩ | ⟨hp, rfl⟩
  · exact exec_fin_of_type hp
  · exact exec_fin_of_data hp
  · exact exec_of_done (i := .fin) hp nofun
  · exact exec_of_fault (i := .fin) hp nofun

/-- A payload byte reaches CRC alone: below the bound and at it the other registers do not depend on it (20_memory.md,
section 1). -/
theorem execPush_data_byte {b : Byte} {s t : State} (b' : Byte) (hp : s.phase = .data) (h : execPush b s = .next t) :
    ∃ c', execPush b' s = .next { t with crc := c' } := by
  have ht : absorbPayload Config.lenMax b s = .next t := by simpa only [execPush, hp] using h
  rcases absorbPayload_cases ht with ⟨hl, rfl⟩ | ⟨hl, rfl⟩
  · exact ⟨crcByte s.crc b', execPush_data b' hp hl⟩
  · exact ⟨s.crc, exec_push_of_len_eq b' hp hl⟩

/-- Settles O45, command by command. -/
theorem controlIndependentOfCrc : Obligations.ControlIndependentOfCrc := by
  unfold Obligations.ControlIndependentOfCrc
  refine ⟨fun i s t c hi h => ?_, fun b b' s t hp h => execPush_data_byte b' hp h⟩
  cases i with
  | start =>
    obtain rfl := Host.Outcome.next.inj ((exec_start s).symm.trans h)
    exact ⟨0xFFFFFFFF#32, exec_start _⟩
  | push b => exact execPush_withCrc h c
  | fin => exact ⟨c, execFin_withCrc h c⟩
  | chk e => exact absurd rfl (hi e)

/-! ### The phase table -/

theorem phaseAfter_start (s : State) : phaseAfter s (.ok .start) = (.type, .none) := by
  unfold phaseAfter
  cases s.phase <;> rfl

theorem phaseAfter_of_fault {s : State} {k : Except IllegalWord Instr} (hp : s.phase = .fault) (hk : k ≠ .ok .start) :
    phaseAfter s k = (.fault, s.cause) := by
  unfold phaseAfter
  split <;> simp_all

theorem phaseAfter_error {s : State} (e : IllegalWord) (hp : s.phase ≠ .fault) :
    phaseAfter s (.error e) = (.fault, .illegalCommand) := by
  unfold phaseAfter
  split <;> simp_all

/-- The cells of the table in column PUSH (42_commands.md R143). -/
theorem execPush_phaseAfter {b : Byte} {s t : State} (hinv : BlockInv s) (hf : s.phase ≠ .fault)
    (h : execPush b s = .next t) : (t.phase, t.cause) = phaseAfter s (.ok (.push b)) := by
  rcases execPush_cases h with ⟨hp, hn, rfl⟩ | ⟨hp, hn, rfl⟩ | ⟨hp, hl, rfl⟩ | ⟨hp, hl, rfl⟩ | ⟨hp, rfl⟩ | ⟨hp, -⟩
  · obtain ⟨-, -, hc⟩ := hinv.i2 hp
    have hle : s.tcn.toNat ≤ 2 := by bv_omega
    simp [phaseAfter, hp, hle, hc]
  · obtain ⟨-, -, hc⟩ := hinv.i2 hp
    rcases completeTypeCode_cases b s with ⟨hletters, heq⟩ | ⟨hletters, heq⟩
    all_goals
      rw [hn] at hletters
      have hletters' : tcLetters (tcOf s.tc.b0 s.tc.b1 s.tc.b2 b) = _ := hletters
      simp [phaseAfter, hp, hn, heq, hletters', hc]
  · obtain ⟨-, -, hc⟩ := hinv.i3 hp
    have hlt : s.len.toNat < 2147483648 := hl
    simp [phaseAfter, hp, hlt, hc]
  · simp [phaseAfter, hp, hl, Config.lenMax]
  · simp [phaseAfter, hp]
  · exact absurd hp hf

/-- The cells of the table in column FIN (42_commands.md R143). -/
theorem execFin_phaseAfter {s t : State} (hinv : BlockInv s) (hf : s.phase ≠ .fault) (h : execFin s = .next t) :
    (t.phase, t.cause) = phaseAfter s (.ok .fin) := by
  rcases execFin_cases h with ⟨hp, rfl⟩ | ⟨hp, rfl⟩ | ⟨hp, rfl⟩ | ⟨hp, -⟩
  · simp [phaseAfter, hp]
  · obtain ⟨-, -, hc⟩ := hinv.i3 hp
    simp [phaseAfter, hp, hc]
  · simp [phaseAfter, hp]
  · exact absurd hp hf

/-- The cells of the table in column CHK (42_commands.md R143). -/
theorem execChk_phaseAfter {e : Word32} {s t : State} (hinv : BlockInv s) (hf : s.phase ≠ .fault)
    (h : execChk e s = .next t) : (t.phase, t.cause) = phaseAfter s (.ok (.chk e)) := by
  rcases execChk_cases h with ⟨hp, rfl⟩ | ⟨hp, he, rfl⟩ | ⟨hp, he, rfl⟩ | ⟨hp, rfl⟩ | ⟨hp, -⟩
  · simp [phaseAfter, hp]
  · obtain ⟨-, -, hc⟩ := hinv.i3 hp
    simp [phaseAfter, hp, he, hc]
  · simp [phaseAfter, hp, he]
  · simp [phaseAfter, hp]
  · exact absurd hp hf

theorem acceptWord_phaseAfter {w : Command} {s t : State} (hinv : BlockInv s) (h : acceptWord w s = .next t) :
    (t.phase, t.cause) = phaseAfter s (decode w) := by
  by_cases hstart : decode w = .ok .start
  · obtain rfl := Host.Outcome.next.inj (((acceptWord_ok hstart s).trans (exec_start s)).symm.trans h)
    rw [hstart, phaseAfter_start]
    rfl
  by_cases hf : s.phase = .fault
  · obtain rfl := Host.Outcome.next.inj ((acceptWord_of_fault hf hstart).symm.trans h)
    rw [phaseAfter_of_fault hf hstart, hf]
  cases hd : decode w with
  | error e =>
    obtain rfl := Host.Outcome.next.inj ((acceptWord_of_illegal ⟨e, hd⟩ hf).symm.trans h)
    exact (phaseAfter_error e hf).symm
  | ok i =>
    rw [acceptWord_ok hd] at h
    cases i with
    | start => exact absurd hd hstart
    | push b => exact execPush_phaseAfter hinv hf h
    | fin => exact execFin_phaseAfter hinv hf h
    | chk e => exact execChk_phaseAfter hinv hf h

/-- Settles O42: in a state that meets the invariants a word answers, with the table's PHASE and CAUSE. -/
theorem phaseTransitionTable : Obligations.PhaseTransitionTable := by
  unfold Obligations.PhaseTransitionTable
  intro w s h
  obtain ⟨t, ht⟩ := h.acceptWord_answers w
  exact ⟨t, ht, acceptWord_phaseAfter h ht⟩

end Sys2Proof.Machine
end

section
/-! PROOFS. Whole sequences: runs of presented commands, what a sequence ends in, the round trip, and one flipped bit
(42_commands.md R147, 90_conflicts.md C2; O52 to O54). -/

namespace Sys2Proof.Machine

open Sys2Proof.Safety Sys2Proof.Claims

/-! ### Runs of commands -/

/-- The commands, executed one after the other, take the first state to the second. -/
inductive Runs : List Instr → State → State → Prop
  | nil (s : State) : Runs [] s s
  | cons {i : Instr} {cs : List Instr} {s t u : State} (h : exec i s = .next t) (hcs : Runs cs t u) : Runs (i :: cs) s u

theorem Runs.single {i : Instr} {s t : State} (h : exec i s = .next t) : Runs [i] s t := .cons h (.nil t)

theorem Runs.append {cs ds : List Instr} {s t u : State} (h : Runs cs s t) (ht : Runs ds t u) : Runs (cs ++ ds) s u := by
  induction h with
  | nil => exact ht
  | cons hexec _ ih => exact .cons hexec (ih ht)

/-- A command presented at the next edge is executed (42_commands.md R130). -/
theorem step_present {i : Instr} {s t : State} (h : exec i s = .next t) (rest : List PortSample) :
    step { s with pending := commandSample (encode i) :: rest } = .next { t with pending := rest } := by
  have hexec := exec_withPending i s rest
  rw [h] at hexec
  rw [step_cons rfl, clockEdge_commandSample, acceptWord_ok (decode_encode i)]
  exact hexec

/-- Commands presented one at each edge are executed in order, whatever is presented after them. -/
theorem Runs.run_present {cs : List Instr} {s t : State} (h : Runs cs s t) (rest : List PortSample) :
    Host.Core.run core cs.length { s with pending := present cs ++ rest } = .next { t with pending := rest } := by
  induction h with
  | nil => rfl
  | cons hexec _ ih => exact (run_succ (step_present hexec _) _).trans ih

/-- In phase FAULT commands other than START are without effect (60_exceptions.md R167). -/
theorem runs_of_fault {cs : List Instr} {s : State} (hp : s.phase = .fault) (hcs : .start ∉ cs) : Runs cs s s := by
  induction cs with
  | nil => exact .nil s
  | cons i cs ih =>
    obtain ⟨hi, hcs⟩ := List.ne_and_not_mem_of_not_mem_cons hcs
    exact .cons (exec_of_fault hp hi.symm) (ih hcs)

theorem start_notMem_map_push (d : List Byte) : Instr.start ∉ d.map .push := by
  simp

/-! ### START and the four type bytes -/

/-- START and the four PUSHes of a type code. -/
def typeCommands (t : TypeCode) : List Instr := [.start, .push t.b0, .push t.b1, .push t.b2, .push t.b3]

/-- The registers after START and three type bytes. -/
def afterThreeBytes (t : TypeCode) (rest : List PortSample) : State :=
  { crc := crcBytes 0xFFFFFFFF#32 [t.b0, t.b1, t.b2], tc := tcOf t.b0 t.b1 t.b2 0x00#8, tcn := 3#3, len := 0#32,
    phase := .type, cause := .none, pending := rest }

/-- The registers after START and four type bytes, with the PHASE and CAUSE these lead to. -/
def afterType (t : TypeCode) (phase : Phase) (cause : Cause) (rest : List PortSample) : State :=
  { crc := crcBytes 0xFFFFFFFF#32 (typeBytes t), tc := t, tcn := 4#3, len := 0#32, phase := phase, cause := cause,
    pending := rest }

/-- START forgets the state before it; the three PUSHes capture a byte each (42_commands.md R131, R133). -/
theorem runs_threeBytes (t : TypeCode) (s : State) :
    Runs [.start, .push t.b0, .push t.b1, .push t.b2] s (afterThreeBytes t s.pending) :=
  .cons (exec_start s) <|
    .cons (exec_push_of_tcn t.b0 rfl (by decide : 0#3 < 3#3) rfl) <|
    .cons (exec_push_of_tcn t.b1 rfl (by decide : 1#3 < 3#3) rfl) <|
    .single (exec_push_of_tcn t.b2 rfl (by decide : 2#3 < 3#3) rfl)

theorem runs_typeCommands_of_letters {t : TypeCode} (s : State) (h : tcLetters t = true) :
    Runs (typeCommands t) s (afterType t .data .none s.pending) :=
  (runs_threeBytes t s).append (.single (exec_push_of_letters rfl rfl h))

theorem runs_typeCommands_of_not_letters {t : TypeCode} (s : State) (h : tcLetters t = false) :
    Runs (typeCommands t) s (afterType t .fault .invalidTypeCode s.pending) :=
  (runs_threeBytes t s).append (.single (exec_push_of_not_letters rfl rfl h))

/-! ### The data bytes -/

/-- The state with the payload bytes absorbed (42_commands.md R136). -/
def absorbAll (d : List Byte) (s : State) : State :=
  { s with crc := crcBytes s.crc d, len := s.len + BitVec.ofNat 32 d.length }

theorem absorbAll_nil (s : State) : absorbAll [] s = s := by
  rw [absorbAll, List.length_nil, BitVec.add_zero]
  rfl

theorem absorbAll_cons (b : Byte) (d : List Byte) (s : State) :
    absorbAll (b :: d) s = absorbAll d { s with crc := crcByte s.crc b, len := s.len + 1#32 } := by
  have hlen : s.len + BitVec.ofNat 32 (d.length + 1) = s.len + 1#32 + BitVec.ofNat 32 d.length := by
    rw [BitVec.ofNat_add, BitVec.add_assoc, BitVec.add_comm (BitVec.ofNat 32 d.length)]
  rw [absorbAll, List.length_cons, hlen]
  rfl

theorem runs_data {d : List Byte} {s : State} (hp : s.phase = .data) (hl : s.len.toNat + d.length ≤ 2 ^ 31) :
    Runs (d.map .push) s (absorbAll d s) := by
  induction d generalizing s with
  | nil =>
    rw [absorbAll_nil]
    exact .nil s
  | cons b d ih =>
    rw [List.length_cons] at hl
    have hlt : s.len < Config.lenMax := by
      rw [BitVec.lt_def]
      exact (by omega : s.len.toNat < 2 ^ 31)
    rw [absorbAll_cons]
    refine .cons (execPush_data b hp hlt) (ih hp ?_)
    rw [len_succ_toNat hlt]
    omega

/-- One byte more than the bound: the bytes up to it are absorbed, the next raises, the others are ignored
(42_commands.md R137). -/
theorem runs_data_past_bound {d : List Byte} {s : State} (hp : s.phase = .data) (hl : s.len = 0#32) (hd : 2 ^ 31 < d.length) :
    Runs (d.map .push) s
      (raiseFault .invalidChunkLength { s with crc := crcBytes s.crc (d.take (2 ^ 31)), len := Config.lenMax }) := by
  have hsplit : d = d.take (2 ^ 31) ++ d[2 ^ 31] :: d.drop (2 ^ 31 + 1) := by
    rw [← List.drop_eq_getElem_cons, List.take_append_drop]
  have htake : (d.take (2 ^ 31)).length = 2 ^ 31 := List.length_take_of_le hd.le
  have habsorb : absorbAll (d.take (2 ^ 31)) s = { s with crc := crcBytes s.crc (d.take (2 ^ 31)), len := Config.lenMax } := by
    rw [absorbAll, htake, hl]
    rfl
  have hfirst : Runs ((d.take (2 ^ 31)).map .push) s _ := runs_data hp (by rw [hl, htake]; rfl)
  rw [habsorb] at hfirst
  conv => enter [1]; rw [hsplit, List.map_append, List.map_cons]
  exact hfirst.append (.cons (exec_push_of_len_eq _ hp rfl) (runs_of_fault rfl (start_notMem_map_push _)))

/-! ### The whole sequence -/

theorem runSequence_of_runs {t : TypeCode} {d : List Byte} {last : Instr} {s u : State} (rest : List PortSample)
    (h : Runs (typeCommands t ++ d.map .push ++ [last]) s u) :
    runSequence t d last s rest = .next { u with pending := rest } := by
  have hlength : (typeCommands t ++ d.map Instr.push ++ [last]).length = d.length + 6 := by
    simp [typeCommands]
  rw [runSequence, ← hlength]
  exact h.run_present rest

/-- CRC from the checksum: the final complement undone (41_crc32.md R115). -/
theorem crc32_xor_eq_crcBytes (s : List Byte) : crc32 s ^^^ 0xFFFFFFFF#32 = crcBytes 0xFFFFFFFF#32 s := by
  rw [crc32_eq_xor, BitVec.xor_assoc, BitVec.xor_self, BitVec.xor_zero]

/-- The registers after a whole type code and payload, with the PHASE and CAUSE of the end (42_commands.md R147). -/
def endState (t : TypeCode) (d : List Byte) (phase : Phase) (cause : Cause) (rest : List PortSample) : State :=
  { crc := crc32 (typeBytes t ++ d) ^^^ 0xFFFFFFFF#32, tc := t, tcn := 4#3, len := BitVec.ofNat 32 d.length,
    phase := phase, cause := cause, pending := rest }

theorem absorbAll_afterType (t : TypeCode) (d : List Byte) (rest : List PortSample) :
    absorbAll d (afterType t .data .none rest) = endState t d .data .none rest := by
  rw [endState, crc32_xor_eq_crcBytes, crcBytes_append, ← BitVec.zero_add (BitVec.ofNat 32 d.length)]
  rfl

/-- CRCVAL at the end is the checksum of type and data (10_state.md R31). -/
theorem crcVal_endState (t : TypeCode) (d : List Byte) (phase : Phase) (cause : Cause) (rest : List PortSample) :
    crcVal (endState t d phase cause rest) = crc32 (typeBytes t ++ d) := by
  rw [crcVal_eq_xor, endState, BitVec.xor_assoc, BitVec.xor_self, BitVec.xor_zero]

/-- The sequence up to its ending command. -/
theorem runs_typeCommands_data {t : TypeCode} {d : List Byte} (s : State) (h : tcLetters t = true)
    (hd : d.length ≤ 2 ^ 31) :
    Runs (typeCommands t ++ d.map .push) s (endState t d .data .none s.pending) := by
  rw [← absorbAll_afterType]
  refine (runs_typeCommands_of_letters s h).append (runs_data rfl ?_)
  exact (Nat.zero_add d.length).trans_le hd

theorem runSequence_of_not_letters {t : TypeCode} {last : Instr} (d : List Byte) (s : State) (rest : List PortSample)
    (hlast : last ≠ .start) (h : tcLetters t = false) :
    runSequence t d last s rest = .next (afterType t .fault .invalidTypeCode rest) :=
  runSequence_of_runs rest <| ((runs_typeCommands_of_not_letters s h).append
    (runs_of_fault rfl (start_notMem_map_push d))).append (.single (exec_of_fault rfl hlast))

theorem runSequence_past_bound {t : TypeCode} {d : List Byte} {last : Instr} (s : State) (rest : List PortSample)
    (hlast : last ≠ .start) (h : tcLetters t = true) (hd : 2 ^ 31 < d.length) :
    runSequence t d last s rest = .next
      { crc := crc32 (typeBytes t ++ d.take (2 ^ 31)) ^^^ 0xFFFFFFFF#32, tc := t, tcn := 4#3, len := 0x80000000#32,
        phase := .fault, cause := .invalidChunkLength, pending := rest } := by
  rw [crc32_xor_eq_crcBytes, crcBytes_append]
  exact runSequence_of_runs rest <| ((runs_typeCommands_of_letters s h).append
    (runs_data_past_bound rfl rfl hd)).append (.single (exec_of_fault rfl hlast))

theorem runSequence_done {t : TypeCode} {d : List Byte} {last : Instr} (s : State) (rest : List PortSample)
    (h : tcLetters t = true) (hd : d.length ≤ 2 ^ 31) (hlast : last = .fin ∨ last = .chk (crc32 (typeBytes t ++ d))) :
    runSequence t d last s rest = .next (endState t d .done .none rest) := by
  refine runSequence_of_runs rest ((runs_typeCommands_data s h hd).append (.single
    (t := finishComputation (endState t d .data .none s.pending)) ?_))
  rcases hlast with rfl | rfl
  · exact exec_fin_of_data rfl
  · exact exec_chk_of_crcVal_eq rfl (crcVal_endState ..)

theorem runSequence_invalidCrc {t : TypeCode} {d : List Byte} {e : Word32} (s : State) (rest : List PortSample)
    (h : tcLetters t = true) (hd : d.length ≤ 2 ^ 31) (he : e ≠ crc32 (typeBytes t ++ d)) :
    runSequence t d (.chk e) s rest = .next (endState t d .fault .invalidCrc rest) := by
  refine runSequence_of_runs rest ((runs_typeCommands_data s h hd).append (.single (exec_chk_of_crcVal_ne rfl ?_)))
  rw [crcVal_endState]
  exact he.symm

/-- Settles O52, row by row of 42_commands.md R147. -/
theorem sequenceEndStates : Obligations.SequenceEndStates := by
  unfold Obligations.SequenceEndStates
  intro s t d rest last hlast
  have hstart : last ≠ .start := by
    rcases hlast with rfl | ⟨e, rfl⟩ <;> exact nofun
  refine ⟨fun h => ?_, fun h hd => runSequence_past_bound s rest hstart h hd, fun h hd =>
    ⟨fun hend => runSequence_done s rest h hd hend, fun e hchk he => ?_⟩⟩
  · rw [crc32_xor_eq_crcBytes]
    exact runSequence_of_not_letters d s rest hstart h
  · subst hchk
    exact runSequence_invalidCrc s rest h hd he

/-- Settles O53: both sequences end in the registers of `endState`, whose CRCVAL is the operand of the second. -/
theorem generateThenVerify : Obligations.GenerateThenVerify := by
  unfold Obligations.GenerateThenVerify
  intro s s' u t d rest rest' h hd hu
  obtain rfl := Host.Outcome.next.inj ((runSequence_done s rest h hd (.inl rfl)).symm.trans hu)
  refine ⟨_, runSequence_done s' rest' h hd (.inr ?_), rfl, rfl, rfl, rfl, rfl⟩
  rw [rdata_zero, crcVal_endState]

/-- Settles O54: the flip keeps the length and changes the checksum, so that with letters CHK finds them unequal. -/
theorem flippedBitRejected : Obligations.FlippedBitRejected := by
  unfold Obligations.FlippedBitRejected
  intro s t t' d d' pre post b k rest _ hd hk hgood hflip
  have hlength : d'.length = d.length := by
    have hgood' := congrArg List.length hgood
    have hflip' := congrArg List.length hflip
    simp only [typeBytes, List.length_append, List.length_cons] at hgood' hflip'
    omega
  cases hletters : tcLetters t' with
  | false => exact ⟨_, runSequence_of_not_letters d' s rest nofun hletters, rfl, rfl⟩
  | true =>
    refine ⟨_, runSequence_invalidCrc s rest hletters (hlength.trans_le hd) ?_, rfl, rfl⟩
    rw [hgood, hflip]
    exact (singleBitFlipDetected pre post b k hk).symm

end Sys2Proof.Machine
end

section
/-! PROOFS. The assembler: lines, and the pseudo-instructions (30_encoding.md R81, R82; O55, O56). -/

namespace Sys2Proof.Machine

open Sys2Proof.Claims

/-! ### Lines -/

theorem assembleLine_of_wellFormed {l : AsmLine} (h : lineWellFormed l = true) : assembleLine l = .ok (lineSample l) :=
  if_pos h

theorem assembleLine_of_not_wellFormed {l : AsmLine} (h : lineWellFormed l = false) :
    assembleLine l = .error .immediateOutOfRange :=
  if_neg (Bool.eq_false_iff.mp h)

/-- An immediate added to an opcode word is the argument of that word (30_encoding.md R70, R81). -/
theorem ofNat_add_eq_wordOf (op : BitVec 4) {n : Nat} (hn : n < 2 ^ 32) :
    wordOf op 0#32 + BitVec.ofNat 36 n = wordOf op (BitVec.ofNat 32 n) := by
  apply BitVec.eq_of_toNat_eq
  have := op.isLt
  rw [BitVec.toNat_add, wordOf_toNat, wordOf_toNat, BitVec.toNat_ofNat, BitVec.toNat_ofNat, BitVec.toNat_ofNat]
  omega

theorem encode_push_ofNat {n : Nat} (hn : n ≤ 255) :
    encode (.push (BitVec.ofNat 8 n)) = wordOf 0x2#4 (BitVec.ofNat 32 n) := by
  have harg : 0#24 ++ BitVec.ofNat 8 n = BitVec.ofNat 32 n := by
    apply BitVec.eq_of_toNat_eq
    rw [BitVec.toNat_append, BitVec.toNat_ofNat, Nat.zero_mod, Nat.zero_shiftLeft, Nat.zero_or, BitVec.toNat_ofNat,
      BitVec.toNat_ofNat]
    omega
  rw [encode, harg]

theorem assembleLine_push {n : Nat} (hn : n ≤ 255) :
    assembleLine (.push n) = .ok (commandSample (encode (.push (BitVec.ofNat 8 n)))) := by
  rw [encode_push_ofNat hn, ← ofNat_add_eq_wordOf 0x2#4 (by omega)]
  exact assembleLine_of_wellFormed (decide_eq_true hn)

theorem assembleLine_chk {n : Nat} (hn : n ≤ 0xFFFFFFFF) :
    assembleLine (.chk n) = .ok (commandSample (encode (.chk (BitVec.ofNat 32 n)))) := by
  rw [encode, ← ofNat_add_eq_wordOf 0x4#4 (by omega)]
  exact assembleLine_of_wellFormed (decide_eq_true hn)

/-- Settles O55, line by line. -/
theorem assembledLinesEncode : Obligations.AssembledLinesEncode := by
  unfold Obligations.AssembledLinesEncode
  refine ⟨assembleLine_of_wellFormed rfl, assembleLine_of_wellFormed rfl, fun n => assembleLine_push,
    fun n => assembleLine_chk, fun n hn => assembleLine_of_wellFormed (decide_eq_true hn), fun n hn => ?_, fun n hn => ?_,
    ⟨_, assembleLine_of_wellFormed rfl, rfl⟩, ⟨_, assembleLine_of_wellFormed rfl, rfl⟩⟩
  · exact assembleLine_of_not_wellFormed (decide_eq_false hn.not_ge)
  · exact assembleLine_of_not_wellFormed (decide_eq_false hn.not_ge)

/-! ### Programs -/

/-- The line that writes a command (30_encoding.md R81). -/
def lineOf : Instr → AsmLine
  | .start => .start
  | .push b => .push b.toNat
  | .fin => .fin
  | .chk e => .chk e.toNat

theorem assembleLine_lineOf (i : Instr) : assembleLine (lineOf i) = .ok (commandSample (encode i)) := by
  cases i with
  | start => exact assembleLine_of_wellFormed rfl
  | push b =>
    have hline := assembleLine_push (Nat.le_of_lt_succ b.isLt)
    rwa [BitVec.ofNat_toNat, BitVec.setWidth_eq] at hline
  | fin => exact assembleLine_of_wellFormed rfl
  | chk e =>
    have hline := assembleLine_chk (Nat.le_of_lt_succ e.isLt)
    rwa [BitVec.ofNat_toNat, BitVec.setWidth_eq] at hline

/-- The lines of commands assemble to the edges that present them. -/
theorem assembleLines_map_lineOf (cs : List Instr) : assembleLines (cs.map lineOf) = .ok (present cs) := by
  induction cs with
  | nil => rfl
  | cons i cs ih =>
    rw [List.map_cons, assembleLines, assembleLine_lineOf, ih]
    rfl

theorem pushBytes_map_toNat (d : List Byte) : pushBytes (d.map BitVec.toNat) = pushText d := List.map_map ..

theorem expandComputation_typeBytes (t : TypeCode) (rest : List AsmLine) :
    expandComputation (typeBytes t) rest = .ok ((typeCommands t).map lineOf ++ rest) := rfl

/-- GEN and VERIFY expand to the lines of the whole sequence (30_encoding.md R82, 42_commands.md R147). -/
theorem assembleLines_computation (t : TypeCode) (d : List Byte) (last : Instr) :
    ∃ ls, expandComputation (typeBytes t) (pushBytes (d.map BitVec.toNat) ++ [lineOf last]) = .ok ls ∧
      assembleLines ls = .ok (sequence t d last) := by
  refine ⟨_, expandComputation_typeBytes t _, ?_⟩
  have hlines : (typeCommands t).map lineOf ++ (pushBytes (d.map BitVec.toNat) ++ [lineOf last]) =
      (typeCommands t ++ d.map Instr.push ++ [last]).map lineOf := by
    simp [pushBytes, lineOf, Function.comp_def]
  rw [hlines]
  exact assembleLines_map_lineOf _

theorem expandType_of_length_ne {text : List Byte} (h : text.length ≠ 4) : expandType text = .error .textNotFourBytes :=
  if_neg h

theorem expandComputation_of_length_ne {text : List Byte} (rest : List AsmLine) (h : text.length ≠ 4) :
    expandComputation text rest = .error .textNotFourBytes := by
  rw [expandComputation, expandType_of_length_ne h]

/-- Settles O56: each expansion, the two whole sequences by `assembleLines_computation`, and the refusal of other texts. -/
theorem pseudoExpansions : Obligations.PseudoExpansions := by
  unfold Obligations.PseudoExpansions
  refine ⟨fun t d e => ⟨rfl, congrArg _ (pushBytes_map_toNat d), rfl, rfl, assembleLines_computation t d .fin,
    assembleLines_computation t d (.chk e)⟩, fun text bytes n h => ?_⟩
  exact ⟨expandType_of_length_ne h, expandComputation_of_length_ne _ h, expandComputation_of_length_ne _ h,
    expandComputation_of_length_ne _ h⟩

end Sys2Proof.Machine
end
